-- ==== Sys2Proof/Word.lean ====
section
/-! DEFINITION. The bit vectors of the ports and of the six registers (00_scope.md R6, R9). Every value inside an
operation is a mathematical integer (R8), so these widths occur at the ports only. -/

namespace Sys2Proof

/-- `OPW`, the width of each operand port and of the result port (R6, decision D5). Log entry 5. -/
abbrev opw : Nat := 258

/-- The width of a command word, `2 * OPW + 3` (30_encoding.md R60). -/
abbrev cmdWidth : Nat := 519

/-- The width of a response word, `OPW + 8` (30_encoding.md R69). -/
abbrev rspWidth : Nat := 266

/-- The contents of `A`, `B`, `RES` and of the ports `cmd_a`, `cmd_b`, `rsp_value`. -/
abbrev Word := BitVec opw

/-- The contents of `OP` and of the port `cmd_op` (R61). -/
abbrev Opcode := BitVec 3

/-- The contents of `STATUS` and of the port `rsp_status` (10_state.md R24). -/
abbrev StatusWord := BitVec 8

/-- A packed command `CMD` (R60). -/
abbrev CmdWord := BitVec cmdWidth

/-- A packed response `RSP` (R69). -/
abbrev RspWord := BitVec rspWidth

end Sys2Proof
end

