-- ==== Sys2Proof/Machine/Flags.lean ====
section
/-! DEFINITION. The typed errors, their codes, and the status word computed from a code (10_state.md R24, R25;
60_exceptions.md R160, R161). Every bit of `STATUS` is a function of `CODE`, so the flags are computed here once. -/

namespace Sys2Proof.Machine

/-- The errors an operation can raise (R160, R161). -/
inductive Error where
  /-- `DomainError(Zero)` -/
  | zero
  /-- `DomainError(TooLarge)` -/
  | tooLarge
  /-- `DomainError(TickOutOfRange)` -/
  | tickOutOfRange
  /-- `DomainError(SqrtPriceOutOfRange)` -/
  | sqrtPriceOutOfRange
  /-- `OverflowError` -/
  | overflow
  /-- `UnderflowError` -/
  | underflow
  /-- `IllegalOp` -/
  | illegalOp
  /-- `ContractError(SpacingNotPositive)` -/
  | spacingNotPositive
  /-- `ContractError(NegativeLiquidity)` -/
  | negativeLiquidity
  deriving DecidableEq, Repr

/-- The outcome of an operation: "either `ok(v)` or `err(E)`" (00_scope.md R15). -/
inductive Result where
  | ok (v : Int)
  | err (e : Error)
  deriving DecidableEq, Repr

/-- `call U(args)` inside an operation: if the callee raises, the caller raises the same error (R14, R127). -/
def callThen (callee : Result) (rest : Int → Result) : Result :=
  match callee with
  | .ok v => rest v
  | .err e => .err e

/-- The column `CODE` of R161. -/
def errorCode : Error → BitVec 4
  | .zero => 1
  | .tooLarge => 2
  | .tickOutOfRange => 3
  | .sqrtPriceOutOfRange => 4
  | .overflow => 5
  | .underflow => 6
  | .illegalOp => 7
  | .spacingNotPositive => 8
  | .negativeLiquidity => 9

/-- `DOM` is 1 exactly when `CODE` is in {1, 2, 3, 4} (R24). -/
def domOf (code : BitVec 4) : Bool := code == 1 || code == 2 || code == 3 || code == 4

/-- `OVF` is 1 exactly when `CODE = 5` (R24). -/
def ovfOf (code : BitVec 4) : Bool := code == 5

/-- `UNF` is 1 exactly when `CODE = 6` (R24). -/
def unfOf (code : BitVec 4) : Bool := code == 6

/-- `CTR` is 1 exactly when `CODE` is in {7, 8, 9} (R24). -/
def ctrOf (code : BitVec 4) : Bool := code == 7 || code == 8 || code == 9

/-- The status word of a code: `CTR`, `UNF`, `OVF`, `DOM` in bits 7 to 4 and `CODE` in bits 3 to 0 (R24). -/
def statusWord (code : BitVec 4) : StatusWord :=
  BitVec.ofBool (ctrOf code) ++ BitVec.ofBool (unfOf code) ++ BitVec.ofBool (ovfOf code) ++
    BitVec.ofBool (domOf code) ++ code

/-- The status of a success: `CODE = 0` and no flag (R24). -/
def statusOk : StatusWord := statusWord 0

/-- `status_of(E)` (R161). -/
def statusOf (e : Error) : StatusWord := statusWord (errorCode e)

/-- The field `CODE`, bits 3 to 0 (R24). -/
def statusCode (s : StatusWord) : BitVec 4 := s.extractLsb' 0 4

/-- The flag `DOM`, bit 4 (R24). -/
def flagDom (s : StatusWord) : Bool := s.getLsbD 4

/-- The flag `OVF`, bit 5 (R24). -/
def flagOvf (s : StatusWord) : Bool := s.getLsbD 5

/-- The flag `UNF`, bit 6 (R24). -/
def flagUnf (s : StatusWord) : Bool := s.getLsbD 6

/-- The flag `CTR`, bit 7 (R24). -/
def flagCtr (s : StatusWord) : Bool := s.getLsbD 7

end Sys2Proof.Machine
end

