-- ==== Sys2Proof/Syntax.lean ====
section
/-! DEFINITION. The commands of CORE, one constructor per row of opcode_table.json (30_encoding.md R61, R66). Both
operand fields belong to every command (R60), those that an operation ignores too (R64), so that no bit of a command
word is lost. An operand is the integer its field decodes to (R62). -/

namespace Sys2Proof

/-- A command: its operation and its two operands `a`, `b` as signed integers. -/
inductive Instr where
  /-- opcode 1, `mostSignificantBit(a)` (R91) -/
  | msb (a b : Int)
  /-- opcode 2, `sqrtPriceAtTick(a)` (R101) -/
  | spt (a b : Int)
  /-- opcode 3, `tickAtSqrtPrice(a)` (R116) -/
  | tsp (a b : Int)
  /-- opcode 4, `maxLiquidityPerTick(a)` (R136) -/
  | mlt (a b : Int)
  /-- opcode 5, `addLiquidityDelta(a, b)` (R146) -/
  | ald (a b : Int)
  /-- opcode 0, reserved (R67) -/
  | reserved0 (a b : Int)
  /-- opcode 6, reserved (R67) -/
  | reserved6 (a b : Int)
  /-- opcode 7, reserved (R67) -/
  | reserved7 (a b : Int)
  deriving DecidableEq, Repr

/-- The first operand, as presented on `cmd_a`. -/
def Instr.opA : Instr → Int
  | .msb a _ | .spt a _ | .tsp a _ | .mlt a _ | .ald a _ => a
  | .reserved0 a _ | .reserved6 a _ | .reserved7 a _ => a

/-- The second operand, as presented on `cmd_b`. -/
def Instr.opB : Instr → Int
  | .msb _ b | .spt _ b | .tsp _ b | .mlt _ b | .ald _ b => b
  | .reserved0 _ b | .reserved6 _ b | .reserved7 _ b => b

end Sys2Proof
end

