-- ==== Sys2Proof/WellFormed.lean ====
section
/-! DEFINITION. Which commands can be presented: each operand lies in `-2^(OPW-1) .. 2^(OPW-1) - 1` (30_encoding.md
R62). Inside that range every operand is legal for every opcode (R67), and an integer outside it "cannot be presented
and the rules say nothing of it" (R62, U15). -/

namespace Sys2Proof

/-- `v` can be carried by an operand port (R62). -/
abbrev Presentable (v : Int) : Prop := -(2 ^ 257) ≤ v ∧ v < 2 ^ 257

/-- Both operands of the command can be carried by their ports. -/
abbrev WellFormed (i : Instr) : Prop := Presentable i.opA ∧ Presentable i.opB

end Sys2Proof
end

