-- ==== Sys2Proof/Decode.lean ====
section
/-! DEFINITION. Decoding a command word and encoding a command, from the one format `CMD = {cmd_b, cmd_a, cmd_op}`
(30_encoding.md R60), the opcode map (R61, R66) and the two's-complement port encoding (00_scope.md R10, R62, R70). -/

namespace Sys2Proof

/-- `asInt_N(w)`: the signed integer of a port word (R10). -/
def asInt {n : Nat} (w : BitVec n) : Int := w.toInt

/-- `asUInt_N(w)`: the unsigned integer of a port word (R10). -/
def asUInt {n : Nat} (w : BitVec n) : Int := w.toNat

/-- `enc_N(v)`: the N-bit word that stands for `v`, for `-2^(N-1) <= v < 2^(N-1)` (R10). -/
def enc (n : Nat) (v : Int) : BitVec n := BitVec.ofInt n v

/-- `CMD[2:0]` (R60). -/
def CmdWord.op (w : CmdWord) : Opcode := w.extractLsb' 0 3

/-- `CMD[OPW+2:3]` (R60). -/
def CmdWord.a (w : CmdWord) : Word := w.extractLsb' 3 258

/-- `CMD[2*OPW+2:OPW+3]` (R60). -/
def CmdWord.b (w : CmdWord) : Word := w.extractLsb' 261 258

/-- The packed command `{b, a, op}` (R60). -/
def packCmd (op : Opcode) (a b : Word) : CmdWord := b ++ a ++ op

/-- The packed response `{status, value}` (R69). -/
def packRsp (value : Word) (status : StatusWord) : RspWord := status ++ value

/-- The command that opcode `op` and the operands `a`, `b` stand for (R61). Every opcode has a row. -/
def commandOf (op : Opcode) (a b : Int) : Instr :=
  match op.toFin with
  | 0 => .reserved0 a b
  | 1 => .msb a b
  | 2 => .spt a b
  | 3 => .tsp a b
  | 4 => .mlt a b
  | 5 => .ald a b
  | 6 => .reserved6 a b
  | 7 => .reserved7 a b

/-- The decoder, total on command words: all eight opcodes are listed (R66) and every operand pattern is an integer
(R62, R67). -/
def decode (w : CmdWord) : Instr := commandOf w.op (asInt w.a) (asInt w.b)

/-- Why a string of bits is not a command. -/
inductive DecodeError where
  /-- It has a bit set above bit 518: every command has the one length of R60 (R65). Log entry 18. -/
  | longerThanCommand
  deriving DecidableEq, Repr

/-- The decoder on a string of bits given as a number, bit 0 the least significant (R9, R48). -/
def decodeBits (bits : Nat) : Except DecodeError Instr :=
  if bits < 2 ^ cmdWidth then .ok (decode (BitVec.ofNat cmdWidth bits)) else .error .longerThanCommand

/-- The command read from the `nbits` low bits of `w`, every bit above them zero. A command is one word with no byte
order (R48), so bit `k` of `w` is bit `k` of `CMD`. Log entry 18. -/
def decodeTableWord (nbits w : Nat) : Option Instr :=
  match decodeBits (w % 2 ^ nbits) with
  | .ok i => some i
  | .error _ => none

/-- The opcode of a command (R61). -/
def Instr.opcode : Instr → Opcode
  | .reserved0 _ _ => 0
  | .msb _ _ => 1
  | .spt _ _ => 2
  | .tsp _ _ => 3
  | .mlt _ _ => 4
  | .ald _ _ => 5
  | .reserved6 _ _ => 6
  | .reserved7 _ _ => 7

/-- The encoder: the command word of a well-formed command (R60). -/
def encode (i : Instr) : CmdWord := packCmd i.opcode (enc opw i.opA) (enc opw i.opB)

end Sys2Proof
end

