-- ==== Sys2Proof/Config.lean ====
section
/-! DEFINITION. What the spec leaves open: the free values (93_implementation_defined.md U1, U6, U9, U10) and the one
configuration choice it names (U5). A free value is a constant with no body, so nothing can be proved of what it is.
Each is applied to the stream of the machine that draws it and to its clock-edge counter (log entries 3, 4, 6). -/

namespace Sys2Proof.Config

/-- `RES` after an error: "any OPW-bit value", a fresh draw each time (10_state.md R26, 60_exceptions.md R170). -/
opaque freeRes (stream tick : Nat) : Word

/-- `OP` after a RESET step: unspecified (10_state.md R33). -/
opaque freeOp (stream tick : Nat) : Opcode

/-- `A` after a RESET step: unspecified (R33). -/
opaque freeA (stream tick : Nat) : Word

/-- `B` after a RESET step: unspecified (R33). -/
opaque freeB (stream tick : Nat) : Word

/-- `RES` after a RESET step: unspecified (R33). -/
opaque freeResetRes (stream tick : Nat) : Word

/-- `STATUS` after a RESET step: unspecified (R33). -/
opaque freeStatus (stream tick : Nat) : StatusWord

/-- `rsp_value` where `PHASE` is not `DONE`: unspecified (10_state.md R32). -/
opaque freeRspValue (stream tick : Nat) : Word

/-- `rsp_status` where `PHASE` is not `DONE`: unspecified (R32). -/
opaque freeRspStatus (stream tick : Nat) : StatusWord

/-- `cmd_ready` before the first reset: it "holds no defined value" (70_reset_and_hazards.md R191). -/
opaque freeCmdReady (stream tick : Nat) : Bool

/-- `rsp_valid` before the first reset: it "holds no defined value" (R191). -/
opaque freeRspValid (stream tick : Nat) : Bool

/-- `LAT - 1` for a command accepted at this edge: how many edges pass between the ACCEPT edge and the EXEC edge.
Any finite number; it may depend on the opcode, on the operands, on the machine and on ROM arbitration, which the
stream and the tick stand for (70_reset_and_hazards.md R206). Log entry 4. -/
opaque extraLatency (stream tick : Nat) (op : Opcode) (a b : Word) : Nat

/-- The two readings of the rounding of `MIN_TICK / spacing` (43_max_liquidity.md R137, U5). -/
inductive Rounding where
  | towardZero
  | towardMinusInfinity
  deriving DecidableEq, Repr

end Sys2Proof.Config
end

