-- ==== Sys2Proof/Machine/State.lean ====
section
/-! DEFINITION. The state of one instance of CORE: its six registers (10_state.md R20), what the spec implies beside
them (R191, R206), and the model's own records of the ports' input and output. All of it is plain data. -/

namespace Sys2Proof.Machine

/-- What the host drives on the input ports at one rising edge of the clock (R32). Each is a bit or a word of bits:
an undefined logic level cannot be presented (70_reset_and_hazards.md R210, log entry 15). -/
structure EdgeInputs where
  /-- `rst` -/
  rst : Bool
  /-- `cmd_valid` -/
  cmdValid : Bool
  /-- `cmd_op` -/
  cmdOp : Opcode
  /-- `cmd_a` -/
  cmdA : Word
  /-- `cmd_b` -/
  cmdB : Word
  /-- `rsp_ready` -/
  rspReady : Bool
  deriving DecidableEq, Repr

/-- Every input low: what the host drives when no more inputs are listed (log entry 7). -/
def EdgeInputs.quiet : EdgeInputs := ⟨false, false, 0, 0, 0, false⟩

/-- A response as the host receives it: `(rsp_value, rsp_status)` (R26, R69). -/
structure Response where
  /-- `rsp_value` -/
  value : Word
  /-- `rsp_status` -/
  status : StatusWord
  deriving DecidableEq, Repr

/-- The state of one instance of CORE. -/
structure State where
  /-- `PHASE`: where the instance is in the life of a command (R23). -/
  phase : BitVec 2
  /-- `OP`: the opcode of the accepted command (R20). -/
  op : Opcode
  /-- `A`: the first operand, as received (R20). -/
  a : Word
  /-- `B`: the second operand, as received (R20). -/
  b : Word
  /-- `RES`: the result value (R20). -/
  res : Word
  /-- `STATUS`: error code and flags (R24). -/
  status : StatusWord
  /-- Whether a RESET step has fired since power-on: before it no other step is enabled (R191). -/
  resetSeen : Bool
  /-- While `PHASE` is `BUSY`, how many edges still pass before EXEC fires (R206). Log entry 4. -/
  wait : Nat
  /-- The model's own: what the host drives at the coming edges, oldest first (R31, R32). Log entry 7. -/
  inputs : List EdgeInputs
  /-- The model's own: the responses the host has taken, oldest first (R34). Log entry 8. -/
  responses : List Response
  /-- The model's own: which stream of free values this machine draws from. No step writes it. Log entry 6. -/
  stream : Nat
  /-- The model's own: the count of clock edges, the index of fresh free values. Log entry 6. -/
  tick : Nat
  deriving DecidableEq, Repr

/-- `IDLE` (R23). -/
def phaseIdle : BitVec 2 := 0

/-- `BUSY` (R23). -/
def phaseBusy : BitVec 2 := 1

/-- `DONE` (R23). -/
def phaseDone : BitVec 2 := 2

/-- Why the machine is stuck. -/
inductive Fault where
  /-- Raised by a clock edge with `rst = 0` before the first RESET: "no step is enabled" (R191, U11). It is safe: the
  model stops where the spec promises nothing. Log entry 9. -/
  | beforeFirstReset
  deriving DecidableEq, Repr

/-- Why an instruction is refused. -/
inductive Refusal where
  /-- Raised by an arm of `exec` whose instruction has no meaning yet. It is safe. No arm raises it: every row of the
  opcode table has its meaning. -/
  | notModelled (mnemonic : String)
  deriving DecidableEq, Repr

/-- The machine right after reset: `PHASE` is `IDLE` (R33). `OP`, `A`, `B`, `RES`, `STATUS` have no reset value in the
spec; the zeros are the model's (log entry 1), as are the values of the model's own fields (log entries 4, 6, 7, 8). -/
def State.reset : State where
  phase := phaseIdle
  op := 0
  a := 0
  b := 0
  res := 0
  status := 0
  resetSeen := true
  wait := 0
  inputs := []
  responses := []
  stream := 0
  tick := 0

end Sys2Proof.Machine
end

