-- ==== Sys2Proof/Machine/Operands.lean ====
section
/-! DEFINITION. The operand forms. There is one: an operand field of the command is the operand, a signed integer
(30_encoding.md R62). A machine in `BUSY` holds its command in `OP`, `A`, `B` (10_state.md R23). -/

namespace Sys2Proof.Machine

/-- The command word held in the latches, `{B, A, OP}` (R20, R60). -/
def State.heldCommand (s : State) : CmdWord := packCmd s.op s.a s.b

/-- The first operand of the held command, `asInt_OPW(A)` (R26). -/
def State.operandA (s : State) : Int := asInt s.a

/-- The second operand of the held command, `asInt_OPW(B)` (R26). -/
def State.operandB (s : State) : Int := asInt s.b

/-- The register `RES` for the integer `v`: `enc_OPW(v)` (R70). -/
def resultWord (v : Int) : Word := enc opw v

end Sys2Proof.Machine
end

