-- ==== Sys2Proof/Machine/Ops.lean ====
section
/-! DEFINITION. The named operations on the registers: what ACCEPT, EXEC, DELIVER and RESET write (10_state.md R26).
There is no memory to operate on (20_memory.md R40). -/

namespace Sys2Proof.Machine

/-- EXEC's writes for `ok(v)` (R26): the result, the status of a success, and `DONE`. -/
def State.succeed (s : State) (v : Int) : State :=
  { s with res := resultWord v, status := statusOk, phase := phaseDone }

/-- EXEC's writes for `err(E)`, the one exception entry of this hardware (R26, 60_exceptions.md R167): the status of
the error, an unspecified `RES` (R170, log entry 3), and `DONE`. Nothing is saved and control goes nowhere. -/
def State.raise (s : State) (e : Error) : State :=
  { s with res := Config.freeRes s.stream s.tick, status := statusOf e, phase := phaseDone }

/-- EXEC's writes for the outcome of an operation (R26). -/
def State.finish (s : State) (r : Result) : State :=
  match r with
  | .ok v => s.succeed v
  | .err e => s.raise e

/-- Every operation ends in a next state: it returns or it raises (30_encoding.md R68). -/
def State.complete (s : State) (r : Result) : Host.Outcome State Fault Refusal := .next (s.finish r)

/-- ACCEPT (R26). The edges that will pass before EXEC are drawn here (R206, log entry 4). -/
def State.accept (s : State) (op : Opcode) (a b : Word) : State :=
  { s with op := op, a := a, b := b, phase := phaseBusy,
           wait := Config.extraLatency s.stream s.tick op a b }

/-- DELIVER (R26): the host receives the response and the machine is ready again. All the return there is from an
error (60_exceptions.md R168). -/
def State.deliver (s : State) : State :=
  { s with responses := s.responses ++ [⟨s.res, s.status⟩], phase := phaseIdle }

/-- RESET (R26, R33): `PHASE` is `IDLE` and every other register is unspecified (log entry 2). A command in flight is
abandoned (R192). -/
def State.resetStep (s : State) : State :=
  { s with phase := phaseIdle, op := Config.freeOp s.stream s.tick, a := Config.freeA s.stream s.tick,
           b := Config.freeB s.stream s.tick, res := Config.freeResetRes s.stream s.tick,
           status := Config.freeStatus s.stream s.tick, resetSeen := true, wait := 0 }

/-- An edge of `BUSY` before EXEC fires (R206). -/
def State.waitEdge (s : State) : State := { s with wait := s.wait - 1 }

/-- What the host drives at the coming edge; every input low when nothing more is listed (log entry 7). -/
def State.edge (s : State) : EdgeInputs := s.inputs.headD EdgeInputs.quiet

/-- The model's own bookkeeping after an edge: its inputs are used up and the counter moves on. -/
def State.advance (s : State) : State := { s with inputs := s.inputs.tail, tick := s.tick + 1 }

/-- The state in which the very next edge is the EXEC of the command `c`, as if it had been accepted: what a program
loader for one command would leave (log entry 10). -/
def State.holding (s : State) (c : CmdWord) : State :=
  { s with phase := phaseBusy, op := c.op, a := c.a, b := c.b, wait := 0, resetSeen := true,
           inputs := EdgeInputs.quiet :: s.inputs }

end Sys2Proof.Machine
end

