-- ==== Sys2Proof/Machine/Arith.lean ====
section
/-! DEFINITION. Exact integer arithmetic (00_scope.md R8, R9, R11, R12, R13). Nothing here truncates, wraps or
saturates. -/

namespace Sys2Proof.Machine

/-- `2^n`. -/
def pow2 (n : Nat) : Int := ((2 ^ n : Nat) : Int)

/-- `a fdiv b`, for `b > 0`: the greatest integer `q` with `q * b <= a` (R11). -/
def fdiv (a b : Int) : Int := a / b

/-- `a cdiv b`, for `b > 0`: the least integer `q` with `q * b >= a` (R11). -/
def cdiv (a b : Int) : Int := -(fdiv (-a) b)

/-- `a tdiv b`, for `b > 0`: the quotient rounded toward zero (R11). -/
def tdiv (a b : Int) : Int := if 0 ≤ a then fdiv (a.natAbs : Int) b else -(fdiv (a.natAbs : Int) b)

/-- `a mod b`, for `b > 0`: `a - (a fdiv b) * b`, in `[0, b)` (R11). -/
def fmod (a b : Int) : Int := a - fdiv a b * b

/-- `|v|`, the mathematical absolute value (44_liquidity_delta.md R151). -/
def magnitude (v : Int) : Int := (v.natAbs : Int)

/-- `v << n`, for any integer `v` (R12). -/
def shl (v : Int) (n : Nat) : Int := v * pow2 n

/-- `v >> n`, the floor shift, for any integer `v` (R12). -/
def shr (v : Int) (n : Nat) : Int := fdiv v (pow2 n)

/-- `v[i]`, bit `i` of the infinite two's-complement expansion of `v` (R9). -/
def bitAt (v : Int) (i : Nat) : Int := fmod (shr v i) 2

/-- `a | b` on the infinite two's-complement expansions (R13). `Int.negSucc m` is the complement of `m`, so the
negative cases are De Morgan's laws over the non-negative `m`, `n`. -/
def lor (a b : Int) : Int :=
  match a, b with
  | .ofNat m, .ofNat n => .ofNat (m ||| n)
  | .ofNat m, .negSucc n => .negSucc (n - (n &&& m))
  | .negSucc m, .ofNat n => .negSucc (m - (m &&& n))
  | .negSucc m, .negSucc n => .negSucc (m &&& n)

/-- A quotient under either reading of 43_max_liquidity.md R137. -/
def divRounded (r : Config.Rounding) (a b : Int) : Int :=
  match r with
  | .towardZero => tdiv a b
  | .towardMinusInfinity => fdiv a b

end Sys2Proof.Machine
end

