-- ==== Sys2Proof/Machine/Rom.lean ====
section
/-! DEFINITION. The three read-only spaces of CORE and the names of their constants (20_memory.md R41 to R47). They
never change, so they are constants and not state (10_state.md R29, R31). An index outside its range is never formed
(R41): the index types have exactly the range. The ladder, `SEED_EVEN`, `C_LOW` and `C_HIGH` are not printed by the
source and stand here as the spec gives them (R46, R47, decision D28, log entry 13). -/

namespace Sys2Proof.Machine

/-- `ROM_POW2`: the exponent and the power, in descending order (R43). -/
def romPow2Table : List (Int × Int) :=
  [(128, 340282366920938463463374607431768211456), (64, 18446744073709551616), (32, 4294967296), (16, 65536),
   (8, 256), (4, 16), (2, 4), (1, 2)]

/-- `ROM_LADDER` (R46). -/
def romLadderTable : List Int :=
  [0xfffcb933bd6fad37aa2d162d1a594001, 0xfff97272373d413259a46990580e213a,
   0xfff2e50f5f656932ef12357cf3c7fdcc, 0xffe5caca7e10e4e61c3624eaa0941cd0,
   0xffcb9843d60f6159c9db58835c926644, 0xff973b41fa98c081472e6896dfb254c0,
   0xff2ea16466c96a3843ec78b326b52861, 0xfe5dee046a99a2a811c461f1969c3053,
   0xfcbe86c7900a88aedcffc83b479aa3a4, 0xf987a7253ac413176f2b074cf7815e54,
   0xf3392b0822b70005940c7a398e4b70f3, 0xe7159475a2c29b7443b29c7fa6e889d9,
   0xd097f3bdfd2022b8845ad8f792aa5825, 0xa9f746462d870fdf8a65dc1f90e061e5,
   0x70d869a156d2a1b890bb3df62baf32f7, 0x31be135f97d08fd981231505542fcfa6,
   0x09aa508b5b7a84e1c677de54f3e99bc9, 0x005d6af8dedb81196699c329225ee604,
   0x00002216e584f5fa1ea926041bedfe98, 0x00000000048a170391f7dc42444e8fa2]

/-- `ROM_CONST` (R44). -/
def romConstTable : List Int :=
  [-887272, 887272, 4295128739, 1461446703485210103287273052203988822378723970342,
   340282366920938463463374607431768211455,
   115792089237316195423570985008687907853269984665640564039457584007913129639935,
   4294967296, 79228162514264337593543950336, 255738958999603826347141,
   3402992956809132418596140100660247210, 291339464771989622907027621153398088495,
   340282366920938463463374607431768211456]

/-- `Rom(ROM_POW2, j)`. -/
def romPow2 (j : Fin 8) : Int × Int := romPow2Table.get ⟨j.val, j.isLt⟩

/-- `Rom(ROM_LADDER, k)`. -/
def romLadder (k : Fin 20) : Int := romLadderTable.get ⟨k.val, k.isLt⟩

/-- `Rom(ROM_CONST, idx)`. -/
def romConst (idx : Fin 12) : Int := romConstTable.get ⟨idx.val, idx.isLt⟩

/-- `MIN_TICK` (R44). -/
def minTick : Int := romConst 0

/-- `MAX_TICK` (R44). -/
def maxTick : Int := romConst 1

/-- `MIN_SQRT_RATIO` (R44). -/
def minSqrtRatio : Int := romConst 2

/-- `MAX_SQRT_RATIO` (R44). -/
def maxSqrtRatio : Int := romConst 3

/-- `MAX_UINT128` (R44). -/
def maxUint128 : Int := romConst 4

/-- `MAX_UINT256` (R44). -/
def maxUint256 : Int := romConst 5

/-- `Q32` (R44). -/
def q32 : Int := romConst 6

/-- `Q96` (R44). -/
def q96 : Int := romConst 7

/-- `LOG_MULT` (R44). -/
def logMult : Int := romConst 8

/-- `C_LOW` (R44). -/
def cLow : Int := romConst 9

/-- `C_HIGH` (R44). -/
def cHigh : Int := romConst 10

/-- `SEED_EVEN` (R44). -/
def seedEven : Int := romConst 11

/-- The indexes of `ROM_POW2` in the order the loop of `MSB` reads them (40_msb_finder.md R91). -/
def pow2Order : List (Fin 8) := [0, 1, 2, 3, 4, 5, 6, 7]

/-- The bits of `|tick|` that are ladder steps, in ascending order (41_tick_to_sqrtprice.md R103). Bit 0 is the seed's
and no ladder step (R104). -/
def ladderOrder : List (Fin 20) := [1, 2, 3, 4, 5, 6, 7, 8, 9, 10, 11, 12, 13, 14, 15, 16, 17, 18, 19]

/-- The rounds of the logarithm, `i = 0` to `13` (42_sqrtprice_to_tick.md R120). -/
def logRounds : List Nat := [0, 1, 2, 3, 4, 5, 6, 7, 8, 9, 10, 11, 12, 13]

end Sys2Proof.Machine
end

