-- ==== Sys2Proof/Machine/LiquidityDelta.lean ====
section
/-! DEFINITION. Unit 5, the liquidity delta accumulator (44_liquidity_delta.md R145 to R151). It holds no accumulator:
the running liquidity is the operand `x` (10_state.md R28). -/

namespace Sys2Proof.Machine

/-- `addLiquidityDelta(x, y)` (R146), its checks in the order of R147. -/
def addLiquidityDelta (x y : Int) : Result :=
  if x > maxUint128 then .err .overflow
  else if magnitude y > maxUint128 then .err .overflow
  else if y < 0 then
    if magnitude y > x then .err .underflow else .ok (x - magnitude y)
  else if x < 0 then .err .negativeLiquidity
  else if x + y > maxUint128 then .err .overflow
  else .ok (x + y)

/-- The meaning of `ALD`: the operands are `a = x` and `b = y` (R146). -/
def execAld (a b : Int) (s : State) : Host.Outcome State Fault Refusal := s.complete (addLiquidityDelta a b)

end Sys2Proof.Machine
end

