-- ==== Sys2Proof/Machine/MaxLiquidity.lean ====
section
/-! DEFINITION. Unit 4, the max-liquidity-per-tick calculator (43_max_liquidity.md R135 to R141). -/

namespace Sys2Proof.Machine

/-- How `MIN_TICK / spacing` is rounded: toward zero (R137, decision D12, conflict C2). Log entry 12. -/
def minTickRounding : Config.Rounding := .towardZero

/-- `min_usable`, the least usable tick (R136), under either rounding of the quotient of the negative `MIN_TICK` (R137). -/
def minUsable (rounding : Config.Rounding) (spacing : Int) : Int := divRounded rounding minTick spacing * spacing

/-- `max_usable`, the greatest usable tick (R136). -/
def maxUsable (spacing : Int) : Int := tdiv maxTick spacing * spacing

/-- `num_ticks` (R136). -/
def numTicks (rounding : Config.Rounding) (spacing : Int) : Int :=
  fdiv (maxUsable spacing - minUsable rounding spacing) spacing + 1

/-- `maxLiquidityPerTick(spacing)` under either rounding (R136, R140). -/
def maxLiquidityPerTick (rounding : Config.Rounding) (spacing : Int) : Result :=
  if spacing ≤ 0 then .err .spacingNotPositive
  else .ok (fdiv maxUint128 (numTicks rounding spacing))

/-- The meaning of `MLT`: the operand is `a = spacing` (R136). -/
def execMlt (a : Int) (s : State) : Host.Outcome State Fault Refusal :=
  s.complete (maxLiquidityPerTick minTickRounding a)

end Sys2Proof.Machine
end

