-- ==== Sys2Proof/Machine/MsbFinder.lean ====
section
/-! DEFINITION. Unit 1, the most-significant-bit finder (40_msb_finder.md R90 to R93). -/

namespace Sys2Proof.Machine

/-- The two values the loop of `MSB` carries (R91). -/
structure MsbScan where
  rem : Int
  acc : Int
  deriving DecidableEq, Repr

/-- One table entry of the loop (R91): divide by the power and count its exponent when the remaining value reaches it. -/
def msbRound (st : MsbScan) (j : Fin 8) : MsbScan :=
  if (romPow2 j).2 ≤ st.rem then ⟨fdiv st.rem (romPow2 j).2, st.acc + (romPow2 j).1⟩ else st

/-- `mostSignificantBit(x)` (R91). -/
def mostSignificantBit (x : Int) : Result :=
  if x ≤ 0 then .err .zero
  else if x > maxUint256 then .err .tooLarge
  else .ok (pow2Order.foldl msbRound ⟨x, 0⟩).acc

/-- The meaning of `MSB`: the operand is `a = x` (R91). -/
def execMsb (a : Int) (s : State) : Host.Outcome State Fault Refusal := s.complete (mostSignificantBit a)

end Sys2Proof.Machine
end

