-- ==== Sys2Proof/Machine/TickToPrice.lean ====
section
/-! DEFINITION. Unit 2, the tick to sqrt-price converter (41_tick_to_sqrtprice.md R100 to R109). -/

namespace Sys2Proof.Machine

/-- The seed, chosen by bit 0 of `|tick|` (R102). -/
def ladderSeed (absTick : Int) : Int := if bitAt absTick 0 = 1 then romLadder 0 else seedEven

/-- One ladder step: multiply by `L[k]` and drop the low 128 bits when bit `k` of `|tick|` is set (R103). -/
def ladderStep (absTick ratio : Int) (k : Fin 20) : Int :=
  if bitAt absTick k.val = 1 then shr (ratio * romLadder k) 128 else ratio

/-- The ratio after the seed and the ladder, before the inversion (R101). -/
def ladderRatio (absTick : Int) : Int := ladderOrder.foldl (ladderStep absTick) (ladderSeed absTick)

/-- The inversion, for a strictly positive tick only (R105). -/
def invertIfPositive (tick ratio : Int) : Int := if tick > 0 then fdiv maxUint256 ratio else ratio

/-- `sqrtPriceAtTick(tick)` (R101), with the final ceiling rescale of R106. -/
def sqrtPriceAtTick (tick : Int) : Result :=
  if tick < minTick ∨ tick > maxTick then .err .tickOutOfRange
  else .ok (cdiv (invertIfPositive tick (ladderRatio (magnitude tick))) q32)

/-- The meaning of `SPT`: the operand is `a = tick` (R101). -/
def execSpt (a : Int) (s : State) : Host.Outcome State Fault Refusal := s.complete (sqrtPriceAtTick a)

end Sys2Proof.Machine
end

