-- ==== Sys2Proof/Machine/PriceToTick.lean ====
section
/-! DEFINITION. Unit 3, the sqrt-price to tick converter (42_sqrtprice_to_tick.md R115 to R131). It calls unit 1 and,
in the tie-break, unit 2 (R131). -/

namespace Sys2Proof.Machine

/-- The two values the refinement loop carries: the normalised remainder `r` and the logarithm estimate `lg` (R120). -/
structure LogScan where
  r : Int
  lg : Int
  deriving DecidableEq, Repr

/-- Bring the top bit `m` of `v` to bit 127 (R119). -/
def normalise (v m : Int) : Int := if m ≥ 128 then shr v (m - 127).toNat else shl v (127 - m).toNat

/-- The seed of the logarithm: the integer part in 64 fractional bits (R119). -/
def logSeed (v m : Int) : LogScan := ⟨normalise v m, shl (m - 128) 64⟩

/-- One round: square and rescale (R120), write the extracted bit (R121), renormalise by it (R122). -/
def logRound (st : LogScan) (i : Nat) : LogScan :=
  let r := shr (st.r * st.r) 127
  let f := shr r 128
  ⟨shr r f.toNat, lor st.lg (shl f (63 - i))⟩

/-- The estimate of `log2` of `v` after the fixed 14 rounds (R120, R121). -/
def logEstimate (v m : Int) : Int := (logRounds.foldl logRound (logSeed v m)).lg

/-- The tick as a real number with 128 fractional bits (R123). -/
def logValue (v m : Int) : Int := logEstimate v m * logMult

/-- The lower candidate, a floor shift (R124). -/
def tickLow (lv : Int) : Int := shr (lv - cLow) 128

/-- The upper candidate, from the same `lv` and its own constant (R124, R203). -/
def tickHigh (lv : Int) : Int := shr (lv + cHigh) 128

/-- The choice between the candidates: when they differ, one evaluation of unit 2 on the upper one (R125). -/
def tieBreak (price low high : Int) : Result :=
  if low = high then .ok low
  else callThen (sqrtPriceAtTick high) fun s => if s ≤ price then .ok high else .ok low

/-- `tickAtSqrtPrice(price)` (R116). Errors of the inner calls propagate unchanged (R127). -/
def tickAtSqrtPrice (price : Int) : Result :=
  if price < minSqrtRatio ∨ price ≥ maxSqrtRatio then .err .sqrtPriceOutOfRange
  else
    callThen (mostSignificantBit (price * q32)) fun m =>
      tieBreak price (tickLow (logValue (price * q32) m)) (tickHigh (logValue (price * q32) m))

/-- The meaning of `TSP`: the operand is `a = price` (R116). -/
def execTsp (a : Int) (s : State) : Host.Outcome State Fault Refusal := s.complete (tickAtSqrtPrice a)

end Sys2Proof.Machine
end

