-- ==== Sys2Proof/Machine/Reserved.lean ====
section
/-! DEFINITION. The reserved opcodes 0, 6 and 7: accepted like any other command, no arithmetic, `IllegalOp`
(30_encoding.md R67). Both operands are ignored (R64). -/

namespace Sys2Proof.Machine

/-- The meaning of opcode 0 (R67). -/
def execReserved0 (s : State) : Host.Outcome State Fault Refusal := s.complete (.err .illegalOp)

/-- The meaning of opcode 6 (R67). -/
def execReserved6 (s : State) : Host.Outcome State Fault Refusal := s.complete (.err .illegalOp)

/-- The meaning of opcode 7 (R67). -/
def execReserved7 (s : State) : Host.Outcome State Fault Refusal := s.complete (.err .illegalOp)

end Sys2Proof.Machine
end

