-- ==== Sys2Proof/Machine/Dispatch.lean ====
section
/-! DEFINITION. The dispatch `Exec` (30_encoding.md R68): one arm per command. The operands an operation ignores are
not passed to its meaning (R64). -/

namespace Sys2Proof.Machine

def exec (i : Instr) (s : State) : Host.Outcome State Fault Refusal :=
  match i with
  | .msb a _ => Sys2Proof.Machine.execMsb a s
  | .spt a _ => Sys2Proof.Machine.execSpt a s
  | .tsp a _ => Sys2Proof.Machine.execTsp a s
  | .mlt a _ => Sys2Proof.Machine.execMlt a s
  | .ald a b => Sys2Proof.Machine.execAld a b s
  | .reserved0 _ _ => Sys2Proof.Machine.execReserved0 s
  | .reserved6 _ _ => Sys2Proof.Machine.execReserved6 s
  | .reserved7 _ _ => Sys2Proof.Machine.execReserved7 s

end Sys2Proof.Machine
end

