-- ==== Sys2Proof/Machine/Edge.lean ====
section
/-! DEFINITION. One rising edge of the clock: which of the four steps fires (10_state.md R26, R32;
70_reset_and_hazards.md R190, R191, R206). -/

namespace Sys2Proof.Machine

/-- The step that fires at an edge with inputs `e`. RESET has priority; before the first RESET nothing else is enabled;
otherwise the phase decides. No step fires in `IDLE` without a command, in `BUSY` inside the latency, in `DONE` without
`rsp_ready`, or at the phase code 3, for which no step is enabled (R23, log entry 11). -/
def edgeEffect (e : EdgeInputs) (s : State) : Host.Outcome State Fault Refusal :=
  if e.rst then .next s.resetStep
  else if s.resetSeen = false then .fault .beforeFirstReset
  else if s.phase = phaseIdle then
    .next (if e.cmdValid then s.accept e.cmdOp e.cmdA e.cmdB else s)
  else if s.phase = phaseBusy then
    if s.wait = 0 then exec (decode s.heldCommand) s else .next s.waitEdge
  else if s.phase = phaseDone then
    .next (if e.rspReady then s.deliver else s)
  else .next s

/-- The bookkeeping after the edge, where the machine goes on. -/
def afterEdge (o : Host.Outcome State Fault Refusal) : Host.Outcome State Fault Refusal :=
  match o with
  | .next t => .next t.advance
  | .fault r => .fault r
  | .refused r => .refused r

/-- One clock edge, with the inputs the host drives at it. -/
def clockEdge (s : State) : Host.Outcome State Fault Refusal := afterEdge (edgeEffect s.edge s)

end Sys2Proof.Machine
end

