-- ==== Sys2Proof/Machine/Step.lean ====
section
/-! DEFINITION. The step of the machine: one rising edge of its clock (10_state.md R26, R32). There is no program
counter and no fetch (R22): the instruction a step executes is the command held in the latches. -/

namespace Sys2Proof.Machine

/-- One clock edge. -/
def step (s : State) : Host.Outcome State Fault Refusal := clockEdge s

/-- `s` with the command of the `nbits` low bits of `w` held and due: the next step executes it (log entry 10). -/
def State.withFetchWord (s : State) (nbits w : Nat) : State :=
  s.holding (BitVec.ofNat cmdWidth (w % 2 ^ nbits))

end Sys2Proof.Machine
end

