-- ==== Sys2Proof/Machine/Ports.lean ====
section
/-! DEFINITION. The output ports as functions of the state (10_state.md R32), and the packed response (30_encoding.md
R69). Where the spec calls a port unspecified it shows a free value (log entry 16). -/

namespace Sys2Proof.Machine

/-- `cmd_ready`, for the level `rst` of the reset input (R32, R191). -/
def State.cmdReady (s : State) (rst : Bool) : Bool :=
  if s.resetSeen then decide (s.phase = phaseIdle) && !rst else Config.freeCmdReady s.stream s.tick

/-- `rsp_valid` (R32, R191). -/
def State.rspValid (s : State) : Bool :=
  if s.resetSeen then decide (s.phase = phaseDone) else Config.freeRspValid s.stream s.tick

/-- The machine shows its response: `PHASE` is `DONE` and a reset has been seen. -/
abbrev State.showsResponse (s : State) : Prop := s.resetSeen = true ∧ s.phase = phaseDone

/-- `rsp_value` (R32). -/
def State.rspValue (s : State) : Word :=
  if s.showsResponse then s.res else Config.freeRspValue s.stream s.tick

/-- `rsp_status` (R32). -/
def State.rspStatus (s : State) : StatusWord :=
  if s.showsResponse then s.status else Config.freeRspStatus s.stream s.tick

/-- The response word `RSP` on the response ports (R69). -/
def State.rspWord (s : State) : RspWord := packRsp s.rspValue s.rspStatus

end Sys2Proof.Machine
end

