-- ==== Sys2Proof/Machine/System.lean ====
section
/-! DEFINITION. Any number of copies of CORE side by side (60_exceptions.md R186, decision D21). Each has its own
registers and ports; they share only the ROM, which is constant. A schedule names, edge by edge, the copy whose clock
edge comes next, so that every interleaving of their steps is some schedule (log entry 17). A copy that is stuck ends the
whole run (log entry 25). -/

namespace Sys2Proof.Machine

/-- The states of the copies, by position. -/
abbrev System := List State

/-- The next clock edge of copy `k`. A position that no copy has gives no edge. Where the copy is stuck, at an edge
without reset before its first reset, the whole system stops with that copy's fault: the spec calls the copy stuck (R191,
U11) and does not say what the system then does (DESIGN CHOICE, log entry 25). -/
def systemEdge (sys : System) (k : Nat) : Host.Outcome System Fault Refusal :=
  match sys[k]? with
  | none => .next sys
  | some s =>
    match step s with
    | .next t => .next (sys.set k t)
    | .fault r => .fault r
    | .refused r => .refused r

/-- The edges of a schedule, in order. A fault of one copy ends the run for all, copies already reset included (DESIGN
CHOICE, log entry 25). -/
def systemRun (sys : System) : List Nat → Host.Outcome System Fault Refusal
  | [] => .next sys
  | k :: ks =>
    match systemEdge sys k with
    | .next sys' => systemRun sys' ks
    | .fault r => .fault r
    | .refused r => .refused r

/-- `n` copies right after reset, each with its own stream of free values (log entry 6). -/
def systemReset (n : Nat) : System := (List.range n).map fun k => { State.reset with stream := k }

end Sys2Proof.Machine
end

