-- ==== Sys2Proof/Safety.lean ====
section
/-! DEFINITION. The words claims are made in: the outcome `Exec` of a command, runs of clock edges, what a host observes
(10_state.md R34), and the invariant of the registers. -/

namespace Sys2Proof.Machine

/-- `Exec(op, a, b)` (30_encoding.md R68): the outcome of a command, without any state. -/
def execResult : Instr → Result
  | .msb a _ => mostSignificantBit a
  | .spt a _ => sqrtPriceAtTick a
  | .tsp a _ => tickAtSqrtPrice a
  | .mlt a _ => maxLiquidityPerTick minTickRounding a
  | .ald a b => addLiquidityDelta a b
  | .reserved0 _ _ => .err .illegalOp
  | .reserved6 _ _ => .err .illegalOp
  | .reserved7 _ _ => .err .illegalOp

/-- The status that goes with an outcome (R26). -/
def resultStatus : Result → StatusWord
  | .ok _ => statusOk
  | .err e => statusOf e

/-- The ten values `STATUS` takes (R24). -/
def legalStatuses : List StatusWord := [0x00, 0x11, 0x12, 0x13, 0x14, 0x25, 0x46, 0x87, 0x88, 0x89]

/-- `value` and `status` are a response to the command `i`: the status of its outcome, and on a success its result. On
an error any value will do (60_exceptions.md R170, log entry 3). -/
def Answers (i : Instr) (value : Word) (status : StatusWord) : Prop :=
  status = resultStatus (execResult i) ∧ ∀ v, execResult i = .ok v → value = resultWord v

/-- `after_reset`, the premise every run starts from: `PHASE` is `IDLE` after a RESET step, nothing more (R34). -/
abbrev AfterReset (s : State) : Prop := s.resetSeen = true ∧ s.phase = phaseIdle

/-- What is to be observed of a response: its status, and its value unless the status is an error's (R34). -/
def Response.observed (r : Response) : Option Word × StatusWord :=
  (if statusCode r.status = 0 then some r.value else none, r.status)

/-- What is to be observed of a response to the command `i`. -/
def expectedObservation (i : Instr) : Option Word × StatusWord :=
  match execResult i with
  | .ok v => (some (resultWord v), statusOk)
  | .err e => (none, statusOf e)

/-- `n` clock edges, stopping at a fault or a refusal. -/
def runEdges : Nat → State → Host.Outcome State Fault Refusal
  | 0, s => .next s
  | n + 1, s =>
    match step s with
    | .next t => runEdges n t
    | .fault r => .fault r
    | .refused r => .refused r

/-- Every one of the next `n` edges has inputs that meet `p`. Where fewer are listed, the rest are quiet. -/
def NextInputs (p : EdgeInputs → Prop) : Nat → List EdgeInputs → Prop
  | 0, _ => True
  | n + 1, es => p (es.headD EdgeInputs.quiet) ∧ NextInputs p n es.tail

/-- The command the machine accepts at the coming edge, where ACCEPT fires there (R26, R32). -/
def State.acceptedNow (s : State) : Option CmdWord :=
  if s.resetSeen = true ∧ s.cmdReady s.edge.rst = true ∧ s.edge.cmdValid = true then
    some (packCmd s.edge.cmdOp s.edge.cmdA s.edge.cmdB)
  else none

/-- The program of a run of `n` edges: the commands accepted on the way, in order (R34). -/
def acceptedIn : Nat → State → List CmdWord
  | 0, _ => []
  | n + 1, s =>
    s.acceptedNow.toList ++
      match step s with
      | .next t => acceptedIn n t
      | .fault _ => []
      | .refused _ => []

/-- The command accepted and not yet answered, if there is one: at most one is outstanding (R26, R34). -/
def State.pending (s : State) : List CmdWord := if s.phase = phaseIdle then [] else [s.heldCommand]

/-- The host presents the command `w` at this edge, and no reset (R32). -/
abbrev EdgeInputs.Presents (e : EdgeInputs) (w : CmdWord) : Prop :=
  e.rst = false ∧ e.cmdValid = true ∧ e.cmdOp = w.op ∧ e.cmdA = w.a ∧ e.cmdB = w.b

/-- The inputs of a host that presents the command `w` and does not take a response. -/
def EdgeInputs.present (w : CmdWord) : EdgeInputs := ⟨false, true, w.op, w.a, w.b, false⟩

/-- The inputs of a host that presents nothing and is ready for a response. -/
def EdgeInputs.take : EdgeInputs := ⟨false, false, 0, 0, 0, true⟩

/-- The command completes with the result `v`: `RES` is `enc_OPW(v)`, `STATUS` is `0x00`, `PHASE` is `DONE`, and nothing
else changes (R26). -/
abbrev CompletesOk (i : Instr) (s : State) (v : Int) : Prop :=
  exec i s = .next { s with res := enc opw v, status := 0x00, phase := phaseDone }

/-- The command completes with the error status `st`: `RES` is a free value, `STATUS` is `st`, `PHASE` is `DONE`, and
nothing else changes (R26, 60_exceptions.md R167, R170; log entry 3). A statement of this holds whatever the free value is. -/
abbrev CompletesErr (i : Instr) (s : State) (st : StatusWord) : Prop :=
  exec i s = .next { s with res := Config.freeRes s.stream s.tick, status := st, phase := phaseDone }

/-- EXEC fires at the coming edge (R26, R206). -/
abbrev State.ExecDue (s : State) : Prop :=
  s.resetSeen = true ∧ s.phase = phaseBusy ∧ s.wait = 0 ∧ s.edge.rst = false

/-- The invariant of the registers once a reset has been seen: `PHASE` is one of its three values (R23), and a response
that is shown answers the command still held in the latches (R20, R26). -/
def RegistersAgree (s : State) : Prop :=
  s.resetSeen = true →
    (s.phase = phaseIdle ∨ s.phase = phaseBusy ∨ s.phase = phaseDone) ∧
      (s.phase = phaseDone → Answers (decode s.heldCommand) s.res s.status)

end Sys2Proof.Machine
end

