-- ==== Sys2Proof/Certificates/Slice0/Obligations.lean ====
section
/-! DEFINITION. The statements for the provers. Each docstring names the rules of the spec it formalises; a statement
about an exact result of SPT or TSP rests on the ROM tables of 20_memory.md R44 and R46 (log entry 13). -/

open Sys2Proof Sys2Proof.Machine

/-! ## Encoding -/

/-- Decoding the word of a well-formed command gives the command back: no bit of an encoding is dropped (R60, R61, R62). -/
def Obligations.DecodeInvertsEncode : Prop :=
  ∀ i : Instr, WellFormed i → decode (encode i) = i

/-- Every command word is the word of the one well-formed command it decodes to (R60, R62, R65, R66). -/
def Obligations.EncodeInvertsDecode : Prop :=
  ∀ w : CmdWord, WellFormed (decode w) ∧ encode (decode w) = w

/-- Command words that the spec prints (95_test_vectors.md P1, P2, P3) decode to the commands it prints them for. -/
def Obligations.PrintedWordsDecode : Prop :=
  decode 0x322#519 = .spt 100 0 ∧
  decode 0x80a43df70e0beeda2e705d703#519 = .tsp 79625275426524748796330556128 0 ∧
  decode 0x80a43df70e0beeda2e705d701#519 = .msb 79625275426524748796330556128 0 ∧
  decode 0x1ffffffffffffffffffffffffffffffffffffffffffffffffffffffffffffffce2#519 = .spt (-100) 0 ∧
  decode 0x1e4#519 = .mlt 60 0 ∧
  decode 0x7fffffffffffffffffffffffffffffffffffffffffffffffffffffffffffffff60000000000000000000000000000000000011ba37352c6e589ea57c10dc9f8315#519
    = .ald 11505743598341114571880798222544994 (-5) ∧
  decode 0x0#519 = .reserved0 0 0 ∧
  decode 0x7fffffffffffffffffffffffffffffffffffffffffffffffffffffffffffffffe000000000000000000000000000000000000000000000000000000000000003de#519
    = .reserved6 123 (-1)

/-- At an edge where EXEC is due the machine executes the command held in its latches: the step is `exec` of the
well-formed command whose word they hold, and then the model's bookkeeping (its input record used up, its edge counter
moved on) (R26). -/
def Obligations.StepExecutesHeldCommand : Prop :=
  ∀ (s : State) (i : Instr), WellFormed i → s.ExecDue → s.heldCommand = encode i →
    step s =
      match exec i s with
      | .next t => .next { t with inputs := t.inputs.tail, tick := t.tick + 1 }
      | .fault r => .fault r
      | .refused r => .refused r

/-- The port encoding (R10): `enc_N(v)` is the unique N-bit word whose signed integer is `v`; the signed integer of a
word is its unsigned one, less `2^N` when the top bit is set; and widening by the sign keeps the signed integer. -/
def Obligations.PortEncodingIsTwosComplement : Prop :=
  (∀ (n : Nat) (v : Int), -(2 ^ n) ≤ v → v < 2 ^ n →
    asInt (enc (n + 1) v) = v ∧ ∀ w : BitVec (n + 1), asInt w = v → w = enc (n + 1) v) ∧
  (∀ (n : Nat) (w : BitVec (n + 1)),
    asInt w = if w.getLsbD n then asUInt w - 2 ^ (n + 1) else asUInt w) ∧
  (∀ (m n : Nat) (w : BitVec m), m ≤ n → asInt (w.signExtend n) = asInt w)

/-! ## Integer arithmetic -/

/-- The quotients of R11 for a positive divisor: floor is the greatest `q` with `q * b <= a`, ceiling the least `q` with
`q * b >= a`, truncation rounds toward zero, and the remainder of floor lies in `[0, b)`. -/
def Obligations.QuotientsRoundAsDefined : Prop :=
  ∀ a b : Int, 0 < b →
    (∀ q : Int, q * b ≤ a ↔ q ≤ fdiv a b) ∧
    (∀ q : Int, a ≤ q * b ↔ cdiv a b ≤ q) ∧
    (0 ≤ a → tdiv a b = fdiv a b) ∧
    (a < 0 → tdiv a b = cdiv a b) ∧
    0 ≤ fmod a b ∧ fmod a b < b ∧ fdiv a b * b + fmod a b = a

/-- The bitwise OR of R13: each bit of `a | b` is the OR of the bits, it is negative exactly when an operand is, and
setting a bit that is zero is an addition. The last is the inference that R13 marks as the spec's own, "[derived: from rule
R119 and rule R121]", stated for every integer. -/
def Obligations.OrActsOnTwosComplement : Prop :=
  ∀ a b : Int,
    (∀ i : Nat, bitAt (lor a b) i = if bitAt a i = 1 ∨ bitAt b i = 1 then 1 else 0) ∧
    (lor a b < 0 ↔ a < 0 ∨ b < 0) ∧
    (∀ i : Nat, bitAt a i = 0 → lor a (2 ^ i) = a + 2 ^ i)

/-! ## ROM -/

/-- `ROM_POW2` holds the powers of two with the exponents 128, 64, 32, 16, 8, 4, 2, 1, in that order (R43). -/
def Obligations.PowerTableIsDescendingPowersOfTwo : Prop :=
  pow2Order.map romPow2 = ([128, 64, 32, 16, 8, 4, 2, 1] : List Nat).map fun (i : Nat) => ((i : Int), (2 : Int) ^ i)

/-- Each ladder entry is within 1 of `2^128 / sqrt(1.0001)^(2^k)`, compared by squares in exact integers (R46; the
values themselves are the spec's general knowledge, log entry 13). -/
def Obligations.LadderEntriesEncodeTheirPowers : Prop :=
  ∀ k : Fin 20,
    ((romLadder k).toNat - 1) ^ 2 * 10001 ^ 2 ^ k.val ≤ 2 ^ 256 * 10000 ^ 2 ^ k.val ∧
    2 ^ 256 * 10000 ^ 2 ^ k.val ≤ ((romLadder k).toNat + 1) ^ 2 * 10001 ^ 2 ^ k.val

/-! ## MSB -/

/-- For every operand of its domain `MSB` completes with the unique `m` with `2^m <= x < 2^(m+1)`, which is the index of
the highest set bit, and the scan's remaining value ends as exactly 1 (R92). That it ends as exactly 1, where the source
says "0 or 1", is an inference that R92 marks as the spec's own: "[derived: from rule R91]" (conflict C11). -/
def Obligations.MsbIsTheHighestSetBit : Prop :=
  ∀ (x b : Int) (s : State), 1 ≤ x → x ≤ 2 ^ 256 - 1 →
    ∃ m : Nat, 2 ^ m ≤ x ∧ x < 2 ^ (m + 1) ∧
      (∀ m' : Nat, 2 ^ m' ≤ x → x < 2 ^ (m' + 1) → m' = m) ∧
      bitAt x m = 1 ∧ (∀ i : Nat, m < i → bitAt x i = 0) ∧
      (pow2Order.foldl msbRound ⟨x, 0⟩).rem = 1 ∧
      CompletesOk (.msb x b) s m

/-- `MSB` ends in `DomainError(Zero)` exactly when `x <= 0` and in `DomainError(TooLarge)` exactly when `x >= 2^256`
(R91, R161). -/
def Obligations.MsbRejectsOutsideItsDomain : Prop :=
  ∀ (x b : Int) (s : State),
    (x ≤ 0 → CompletesErr (.msb x b) s 0x11) ∧ (2 ^ 256 ≤ x → CompletesErr (.msb x b) s 0x12)

/-! ## SPT -/

/-- For every tick of its domain `SPT` completes with the ratio (inverted for a positive tick) divided by `2^32`, one
more when there is a remainder, which is the ceiling of the quotient (R106). -/
def Obligations.SptRescalesRoundingUp : Prop :=
  ∀ (tick b : Int) (s : State), -887272 ≤ tick → tick ≤ 887272 →
    let ratio :=
      if tick > 0 then fdiv (2 ^ 256 - 1) (ladderRatio (magnitude tick)) else ladderRatio (magnitude tick)
    CompletesOk (.spt tick b) s (shr ratio 32 + if fmod ratio (2 ^ 32) ≠ 0 then 1 else 0) ∧
    cdiv ratio (2 ^ 32) = shr ratio 32 + if fmod ratio (2 ^ 32) ≠ 0 then 1 else 0

/-- The ratio before the inversion is at least `18447437462383981825` (so at least `2^64`, and the inversion never
divides by zero), reached at 887272, and at most `2^128` (R105, R30). The values rest on ROM_LADDER (log entry 13). -/
def Obligations.LadderRatioStaysInBounds : Prop :=
  (∀ n : Int, 0 ≤ n → n ≤ 887272 → 18447437462383981825 ≤ ladderRatio n ∧ ladderRatio n ≤ 2 ^ 128) ∧
  ladderRatio 887272 = 18447437462383981825 ∧ (2 : Int) ^ 64 ≤ 18447437462383981825

/-- Bit 0 of the magnitude chooses the seed and does not also multiply: an odd magnitude starts from `L[0]` as it is and
takes the same ladder steps as the even number below it, which starts from `2^128` (R102, R104). That `L[0]` is the seed
rests on `SEED_EVEN` and ROM_LADDER as the spec gives them from general knowledge (log entry 13). -/
def Obligations.BitZeroOnlyChoosesTheSeed : Prop :=
  ∀ n : Int, bitAt n 0 = 0 →
    ladderSeed n = 2 ^ 128 ∧ ladderSeed (n + 1) = romLadder 0 ∧
    (∀ (ratio : Int) (k : Fin 20), k ∈ ladderOrder → ladderStep (n + 1) ratio k = ladderStep n ratio k) ∧
    ladderRatio (n + 1) = ladderOrder.foldl (ladderStep n) (romLadder 0) ∧
    shr (2 ^ 128 * romLadder 0) 128 = romLadder 0

/-- `SPT` ends in `DomainError(TickOutOfRange)` for every tick outside `[-887272, 887272]` (R101, R161). -/
def Obligations.SptRejectsOutsideItsDomain : Prop :=
  ∀ (tick b : Int) (s : State), tick < -887272 ∨ 887272 < tick → CompletesErr (.spt tick b) s 0x13

/-- The prices of the two end ticks are the two constants the source quotes, and the other relations among the constants:
the tick range is symmetric, and the price range lies between `2^32` and `2^160` (R45). The price of tick 0 is `2^96`
(R101). The computed prices rest on ROM_LADDER and `SEED_EVEN`, the spec's general knowledge (R46, U17, log entry 13). -/
def Obligations.SptMeetsTheQuotedPrices : Prop :=
  ∀ (b : Int) (s : State),
    CompletesOk (.spt minTick b) s minSqrtRatio ∧ CompletesOk (.spt maxTick b) s maxSqrtRatio ∧
    minTick = -maxTick ∧ maxSqrtRatio < 2 ^ 160 ∧ 2 ^ 32 < minSqrtRatio ∧
    CompletesOk (.spt 0 b) s (2 ^ 96)

/-- The four properties the source states of `SPT` (R107): it is strictly increasing over all valid ticks, its values at
the two end ticks are the two constants, and one tick beyond either end fails. The values rest on ROM_LADDER (log entry
13). -/
def Obligations.SptIsStrictlyIncreasing : Prop :=
  (∀ t t' p p' : Int, t < t' → sqrtPriceAtTick t = .ok p → sqrtPriceAtTick t' = .ok p' → p < p') ∧
  (∀ t : Int, -887272 ≤ t → t ≤ 887272 → ∃ p : Int, sqrtPriceAtTick t = .ok p) ∧
  sqrtPriceAtTick minTick = .ok minSqrtRatio ∧ sqrtPriceAtTick maxTick = .ok maxSqrtRatio ∧
  sqrtPriceAtTick (minTick - 1) = .err .tickOutOfRange ∧ sqrtPriceAtTick (maxTick + 1) = .err .tickOutOfRange

/-- What must not be assumed of `SPT` (R108): at tick 272158 the result is about 17 units below the real square-root
price, compared by squares in exact integers. It rests on ROM_LADDER (log entry 13). -/
def Obligations.SptCanFallBelowTheRealPrice : Prop :=
  ∃ p : Nat, sqrtPriceAtTick 272158 = .ok p ∧
    (p + 16) ^ 2 * 10000 ^ 272158 < 2 ^ 192 * 10001 ^ 272158 ∧
    2 ^ 192 * 10001 ^ 272158 < (p + 17) ^ 2 * 10000 ^ 272158

/-! ## TSP -/

/-- `TSP` ends in `DomainError(SqrtPriceOutOfRange)` below the inclusive lower bound and from the exclusive upper bound
on (R116, R117, R161). -/
def Obligations.TspRejectsOutsideItsDomain : Prop :=
  ∀ (price b : Int) (s : State),
    price < 4295128739 ∨ 1461446703485210103287273052203988822378723970342 ≤ price →
    CompletesErr (.tsp price b) s 0x14

/-- For an in-domain price the rescaled value lies in `(2^64, 2^192)`, its top bit `m` in `[64, 191]`, and `m` is 32 more
than the top bit of the price (R118). The bounds are an inference that R118 marks as the spec's own: "[derived: from
20_memory.md rule R45]". -/
def Obligations.RescaledPriceHasItsTopBit : Prop :=
  ∀ price : Int, 4295128739 ≤ price → price < 1461446703485210103287273052203988822378723970342 →
    2 ^ 64 < price * q32 ∧ price * q32 < 2 ^ 192 ∧
    ∃ m : Int, mostSignificantBit (price * q32) = .ok m ∧ 64 ≤ m ∧ m ≤ 191 ∧
      mostSignificantBit price = .ok (m - 32)

/-- Normalising brings the top bit to bit 127, and the seed of the logarithm is the integer part, its low 64 bits all
zero (R119). -/
def Obligations.NormalisedValueHas128Bits : Prop :=
  ∀ v m : Int, mostSignificantBit v = .ok m →
    2 ^ 127 ≤ normalise v m ∧ normalise v m < 2 ^ 128 ∧
    (logSeed v m).lg = (m - 128) * 2 ^ 64 ∧ (∀ i : Nat, i < 64 → bitAt (logSeed v m).lg i = 0)

/-- One round of the logarithm on a normalised remainder: the square lies in `[2^254, 2^256)`, after the shift by 127 it
lies in `[2^127, 2^129)`, the extracted bit is 1 exactly when the squared mantissa is at least 2, and the remainder is
halved exactly then, which normalises it again (R120, R122). -/
def Obligations.LogRoundKeepsTheRemainderNormalised : Prop :=
  ∀ (st : LogScan) (i : Nat), 2 ^ 127 ≤ st.r → st.r < 2 ^ 128 →
    2 ^ 254 ≤ st.r * st.r ∧ st.r * st.r < 2 ^ 256 ∧
    2 ^ 127 ≤ shr (st.r * st.r) 127 ∧ shr (st.r * st.r) 127 < 2 ^ 129 ∧
    shr (shr (st.r * st.r) 127) 128 = (if 2 ^ 255 ≤ st.r * st.r then 1 else 0) ∧
    (logRound st i).r =
      (if 2 ^ 255 ≤ st.r * st.r then fdiv (shr (st.r * st.r) 127) 2 else shr (st.r * st.r) 127) ∧
    2 ^ 127 ≤ (logRound st i).r ∧ (logRound st i).r < 2 ^ 128

/-- After `k` of the 14 rounds the estimate is the seed plus a fraction `F` with `0 <= F < 2^64` whose low `64 - k` bits
are zero, and the next round sets bit `63 - k`, zero beforehand, to its bit `f`: the OR is the addition
`lg + f * 2^(63 - k)` (R121). -/
def Obligations.EachRoundAddsOneFractionBit : Prop :=
  ∀ (v m : Int) (k : Nat), mostSignificantBit v = .ok m → k ≤ 14 →
    let st := (logRounds.take k).foldl logRound (logSeed v m)
    (∃ F : Int, st.lg = (m - 128) * 2 ^ 64 + F ∧ 0 ≤ F ∧ F < 2 ^ 64 ∧ 2 ^ (64 - k) ∣ F) ∧
    (k < 14 →
      let f := shr (shr (st.r * st.r) 127) 128
      bitAt st.lg (63 - k) = 0 ∧
      (logRound st k).lg = lor st.lg (shl f (63 - k)) ∧ lor st.lg (shl f (63 - k)) = st.lg + f * 2 ^ (63 - k) ∧
      bitAt (logRound st k).lg (63 - k) = f)

/-- The two candidates are floors of the same logarithm, each with its own constant, and they differ by 0 or 1 (R124).
That they differ by no more rests on the values of `C_LOW` and `C_HIGH`, the spec's general knowledge (log entry 13). -/
def Obligations.CandidatesAreFloorsAndDifferByAtMostOne : Prop :=
  ∀ lv : Int,
    (tickLow lv * 2 ^ 128 ≤ lv - cLow ∧ lv - cLow < (tickLow lv + 1) * 2 ^ 128) ∧
    (tickHigh lv * 2 ^ 128 ≤ lv + cHigh ∧ lv + cHigh < (tickHigh lv + 1) * 2 ^ 128) ∧
    (lv - cLow = -1 → tickLow lv = -1) ∧
    (tickHigh lv - tickLow lv = 0 ∨ tickHigh lv - tickLow lv = 1)

/-- The logarithm and both candidates are non-decreasing functions of the price (R126, step 1). The candidates' constants
are the spec's general knowledge (log entry 13). -/
def Obligations.LogarithmIsMonotoneInThePrice : Prop :=
  ∀ p p' m m' : Int, 4295128739 ≤ p → p ≤ p' → p' < 1461446703485210103287273052203988822378723970342 →
    mostSignificantBit (p * q32) = .ok m → mostSignificantBit (p' * q32) = .ok m' →
    logEstimate (p * q32) m ≤ logEstimate (p' * q32) m' ∧
    logValue (p * q32) m ≤ logValue (p' * q32) m' ∧
    tickLow (logValue (p * q32) m) ≤ tickLow (logValue (p' * q32) m') ∧
    tickHigh (logValue (p * q32) m) ≤ tickHigh (logValue (p' * q32) m')

/-- For every in-domain price `TSP` completes: with the one candidate when they agree, otherwise with the upper one when
its exact price is at most the operand and with the lower one when it is above (R125). That the upper candidate always has a
price rests on the ROM tables (log entry 13). -/
def Obligations.TspTakesTheCandidateItsPriceSelects : Prop :=
  ∀ (price b m : Int) (s : State),
    4295128739 ≤ price → price < 1461446703485210103287273052203988822378723970342 →
    mostSignificantBit (price * q32) = .ok m →
    let low := tickLow (logValue (price * q32) m)
    let high := tickHigh (logValue (price * q32) m)
    (low = high → CompletesOk (.tsp price b) s low) ∧
    (low ≠ high →
      ∃ p : Int, sqrtPriceAtTick high = .ok p ∧
        (p ≤ price → CompletesOk (.tsp price b) s high) ∧ (price < p → CompletesOk (.tsp price b) s low))

/-- For every in-domain price `TSP` completes with a tick in `[-887272, 887271]`, so never with an error of an inner call
and never with `MAX_TICK`; the least in-domain price is the price of the least tick and the greatest is one less than the
price of the greatest (R127, R128). It rests on the ROM tables: ROM_LADDER, `C_LOW`, `C_HIGH` (log entry 13). -/
def Obligations.TspAnswersATickOfItsRange : Prop :=
  (∀ (price b : Int) (s : State),
    4295128739 ≤ price → price < 1461446703485210103287273052203988822378723970342 →
    ∃ t : Int, -887272 ≤ t ∧ t ≤ 887271 ∧ CompletesOk (.tsp price b) s t) ∧
  sqrtPriceAtTick (-887272) = .ok 4295128739 ∧
  sqrtPriceAtTick 887272 = .ok 1461446703485210103287273052203988822378723970342

/-- The contract of `TSP` (R126): for every in-domain price it completes with the unique tick `t` with
`SPT(t) <= price < SPT(t+1)`. That the algorithm meets the contract is derived in R126, and it rests on the ROM tables
(log entry 13). -/
def Obligations.TspMeetsItsContract : Prop :=
  ∀ (price b : Int) (s : State),
    4295128739 ≤ price → price < 1461446703485210103287273052203988822378723970342 →
    ∃ t p p' : Int, CompletesOk (.tsp price b) s t ∧
      sqrtPriceAtTick t = .ok p ∧ sqrtPriceAtTick (t + 1) = .ok p' ∧ p ≤ price ∧ price < p' ∧
      ∀ u q q' : Int, sqrtPriceAtTick u = .ok q → sqrtPriceAtTick (u + 1) = .ok q' → q ≤ price → price < q' → u = t

/-- The round trip (R129): `TSP` of the price of a tick completes with the tick, for every tick from `MIN_TICK` to
`MAX_TICK - 1`; at `MAX_TICK` it fails with `DomainError(SqrtPriceOutOfRange)`; and `TSP` of `MIN_SQRT_RATIO` completes
with -887272. It rests on the ROM tables (log entry 13). -/
def Obligations.RoundTripIsExactBelowMaxTick : Prop :=
  ∀ (t p b : Int) (s : State), sqrtPriceAtTick t = .ok p →
    (t ≤ 887271 → CompletesOk (.tsp p b) s t) ∧ (t = 887272 → CompletesErr (.tsp p b) s 0x14) ∧
    CompletesOk (.tsp minSqrtRatio b) s (-887272) ∧ CompletesErr (.tsp maxSqrtRatio b) s 0x14

/-! ## MLT -/

/-- The closed form: with `q = 887272 fdiv spacing`, the usable ticks run from `-q * spacing` to `q * spacing`, there are
`2 * q + 1` of them, an odd number from 1 to 1774545 that counts the multiples of `spacing` in the tick range, and `MLT`
completes with `(2^128 - 1) fdiv (2 * q + 1)` (R138; it rests on the rounding toward zero of decision D12, log entry 12). -/
def Obligations.MltHasItsClosedForm : Prop :=
  ∀ (spacing b : Int) (s : State), 1 ≤ spacing →
    let q := fdiv 887272 spacing
    maxUsable spacing = q * spacing ∧ minUsable minTickRounding spacing = -q * spacing ∧
    maxUsable spacing - minUsable minTickRounding spacing = 2 * q * spacing ∧
    spacing ∣ maxUsable spacing - minUsable minTickRounding spacing ∧
    numTicks minTickRounding spacing = 2 * q + 1 ∧
    numTicks minTickRounding spacing % 2 = 1 ∧
    1 ≤ numTicks minTickRounding spacing ∧ numTicks minTickRounding spacing ≤ 1774545 ∧
    numTicks minTickRounding spacing = (((Finset.Icc (-887272 : Int) 887272).filter (spacing ∣ ·)).card : Int) ∧
    CompletesOk (.mlt spacing b) s (fdiv (2 ^ 128 - 1) (2 * q + 1))

/-- The result of `MLT` is the largest liquidity whose product with the number of usable ticks stays within
`MAX_UINT128`; it lies in `[MLT(1), MAX_UINT128]` and does not decrease with the spacing (R139). The number of usable
ticks rests on the rounding toward zero of decision D12 (log entry 12). -/
def Obligations.MltIsTheLargestSafeCeiling : Prop :=
  ∀ (spacing b : Int) (s : State), 1 ≤ spacing →
    ∃ v : Int, CompletesOk (.mlt spacing b) s v ∧
      numTicks minTickRounding spacing * v ≤ 2 ^ 128 - 1 ∧
      (∀ w : Int, numTicks minTickRounding spacing * w ≤ 2 ^ 128 - 1 → w ≤ v) ∧
      maxLiquidityPerTick minTickRounding 1 = .ok 191757530477355301479181766273477 ∧
      191757530477355301479181766273477 ≤ v ∧ v ≤ 2 ^ 128 - 1 ∧
      (∀ spacing' v' : Int, spacing ≤ spacing' → maxLiquidityPerTick minTickRounding spacing' = .ok v' → v ≤ v')

/-- `MLT` ends in `ContractError(SpacingNotPositive)` for every spacing that is not positive. R140 calls the error this
spec's choice, and modelling it rather than refusing is the model's (DESIGN CHOICE, log entry 14). -/
def Obligations.MltRejectsNonPositiveSpacing : Prop :=
  ∀ (spacing b : Int) (s : State), spacing ≤ 0 → CompletesErr (.mlt spacing b) s 0x88

/-- The two readings of `MIN_TICK / spacing` give the same result exactly for the spacings that divide 887272
(R137, vector V-MLT-9, log entry 12). -/
def Obligations.RoundingMattersUnlessSpacingDivides : Prop :=
  ∀ spacing : Int, 1 ≤ spacing →
    (maxLiquidityPerTick .towardZero spacing = maxLiquidityPerTick .towardMinusInfinity spacing ↔ spacing ∣ 887272)

/-! ## ALD -/

/-- The complete outcome map of `ALD`, its rows tried from the top (R148). The fifth row, `NegativeLiquidity` for a negative
`x`, is the spec's choice (R150), and modelling it rather than refusing is the model's (DESIGN CHOICE, log entry 14). -/
def Obligations.AldFollowsItsOutcomeMap : Prop :=
  ∀ (x y : Int) (s : State),
    let M : Int := 2 ^ 128 - 1
    if x > M then CompletesErr (.ald x y) s 0x25
    else if y > M ∨ y < -M then CompletesErr (.ald x y) s 0x25
    else if y < 0 ∧ -y > x then CompletesErr (.ald x y) s 0x46
    else if y < 0 then CompletesOk (.ald x y) s (x + y) ∧ 0 ≤ x + y ∧ x + y ≤ M - 1
    else if x < 0 then CompletesErr (.ald x y) s 0x89
    else if x + y > M then CompletesErr (.ald x y) s 0x25
    else CompletesOk (.ald x y) s (x + y) ∧ 0 ≤ x + y ∧ x + y ≤ M

/-- Every success of `ALD` is the exact sum and a valid liquidity, and every failure leaves a free value in `RES`: there
is no wrapping and no saturation (R149, R170). The free value stands for R170's unusable value (log entry 3). -/
def Obligations.AldSucceedsOnlyWithTheExactSum : Prop :=
  ∀ (x y : Int) (s : State), ∃ t : State, exec (.ald x y) s = .next t ∧
    (statusCode t.status = 0 → t.res = enc opw (x + y) ∧ 0 ≤ x + y ∧ x + y ≤ 2 ^ 128 - 1) ∧
    (statusCode t.status ≠ 0 → t.res = Config.freeRes s.stream s.tick)

/-! ## Reserved opcodes, status and flags -/

/-- A command with a reserved opcode completes with `IllegalOp` and an unspecified `RES`, changes no other state, and is
accepted like any other (R67). Modelling `IllegalOp`, decision D6, rather than refusing is the model's choice (DESIGN
CHOICE, log entry 14). -/
def Obligations.ReservedOpcodesCompleteWithIllegalOp : Prop :=
  (∀ (a b : Int) (s : State),
    CompletesErr (.reserved0 a b) s 0x87 ∧ CompletesErr (.reserved6 a b) s 0x87 ∧
    CompletesErr (.reserved7 a b) s 0x87) ∧
  (∀ (s : State) (w : CmdWord), AfterReset s → w.op = 0 ∨ w.op = 6 ∨ w.op = 7 → s.edge.Presents w →
    ∃ t, step s = .next t ∧ t.phase = phaseBusy ∧ t.heldCommand = w)

/-- The status byte of each error (R161). Of these, `IllegalOp`, `SpacingNotPositive` and `NegativeLiquidity` are the
spec's own errors, modelled and not refused (log entry 14). -/
def Obligations.EachErrorHasItsStatusByte : Prop :=
  statusOf .zero = 0x11 ∧ statusOf .tooLarge = 0x12 ∧ statusOf .tickOutOfRange = 0x13 ∧
  statusOf .sqrtPriceOutOfRange = 0x14 ∧ statusOf .overflow = 0x25 ∧ statusOf .underflow = 0x46 ∧
  statusOf .illegalOp = 0x87 ∧ statusOf .spacingNotPositive = 0x88 ∧ statusOf .negativeLiquidity = 0x89 ∧
  statusOk = 0x00

/-- Every command leaves one of the ten legal status words, each of which some command leaves; its flags are the
functions of its code, at most one is set, and none is set exactly when the code is 0 (R24). That codes 7, 8 and 9 are
attained is the modelling of log entry 14. -/
def Obligations.StatusTakesExactlyTenValues : Prop :=
  (∀ (i : Instr) (s : State), ∃ t, exec i s = .next t ∧ t.status ∈ legalStatuses ∧
    (flagDom t.status = true ↔ statusCode t.status ∈ [1, 2, 3, 4]) ∧
    (flagOvf t.status = true ↔ statusCode t.status = 5) ∧
    (flagUnf t.status = true ↔ statusCode t.status = 6) ∧
    (flagCtr t.status = true ↔ statusCode t.status ∈ [7, 8, 9]) ∧
    ([flagDom t.status, flagOvf t.status, flagUnf t.status, flagCtr t.status].count true ≤ 1) ∧
    (statusCode t.status = 0 ↔ [flagDom t.status, flagOvf t.status, flagUnf t.status, flagCtr t.status].count true = 0)) ∧
  (∀ st ∈ legalStatuses, ∃ i : Instr, WellFormed i ∧ ∀ s : State, ∃ t, exec i s = .next t ∧ t.status = st)

/-- Which operation can end in which code, and so set which flag (R25): only `MSB`, `SPT`, `TSP` set `DOM`; only `ALD`
sets `OVF` or `UNF`; only a reserved opcode, `MLT`, `ALD` set `CTR`; and `TSP` never ends in an inner call's code, which
rests on the ROM tables (log entry 13). The errors that set `CTR` are those of log entry 14. -/
def Obligations.FlagsAreSetByTheirOperations : Prop :=
  ∀ (i : Instr) (s : State), ∃ t, exec i s = .next t ∧
    match i with
    | .msb _ _ => statusCode t.status ∈ [0, 1, 2] ∧
        flagOvf t.status = false ∧ flagUnf t.status = false ∧ flagCtr t.status = false
    | .spt _ _ => statusCode t.status ∈ [0, 3] ∧
        flagOvf t.status = false ∧ flagUnf t.status = false ∧ flagCtr t.status = false
    | .tsp _ _ => statusCode t.status ∈ [0, 4] ∧
        flagOvf t.status = false ∧ flagUnf t.status = false ∧ flagCtr t.status = false
    | .mlt _ _ => statusCode t.status ∈ [0, 8] ∧
        flagDom t.status = false ∧ flagOvf t.status = false ∧ flagUnf t.status = false
    | .ald _ _ => statusCode t.status ∈ [0, 5, 6, 9] ∧ flagDom t.status = false
    | .reserved0 _ _ | .reserved6 _ _ | .reserved7 _ _ => statusCode t.status = 7 ∧ flagCtr t.status = true ∧
        flagDom t.status = false ∧ flagOvf t.status = false ∧ flagUnf t.status = false

/-! ## Every command -/

/-- Executing any command answers a next state in which only `RES`, `STATUS` and `PHASE` have been written (R26, R163,
R167). CORE has no memory and no other register (R20, R40). -/
def Obligations.ExecWritesOnlyResStatusPhase : Prop :=
  ∀ (i : Instr) (s : State), ∃ t, exec i s = .next t ∧ t.phase = phaseDone ∧
    t.op = s.op ∧ t.a = s.a ∧ t.b = s.b ∧ t.resetSeen = s.resetSeen ∧ t.wait = s.wait ∧
    t.inputs = s.inputs ∧ t.responses = s.responses ∧ t.stream = s.stream ∧ t.tick = s.tick

/-- An operand field the operation does not use is ignored (R64): `b` of every opcode but `ALD`'s, and both fields of a
reserved opcode. -/
def Obligations.UnusedOperandFieldsAreIgnored : Prop :=
  ∀ (w w' : CmdWord) (s : State), w.op = w'.op → w.op ≠ 5 →
    (w.a = w'.a ∨ w.op = 0 ∨ w.op = 6 ∨ w.op = 7) → exec (decode w) s = exec (decode w') s

/-- Every success fits the port and lies in the range of its operation; a port of any width from 258 on carries it, so
the width of the ports changes no result, and the word read back as an operand is the result (R70, R6). The ranges of
`SPT` and `TSP` rest on the ROM tables (log entry 13), that of `MLT` on the rounding of decision D12 (log entry 12). -/
def Obligations.EveryResultLiesInItsRange : Prop :=
  ∀ (i : Instr) (v : Int), execResult i = .ok v →
    (match i with
      | .msb _ _ => 0 ≤ v ∧ v ≤ 255
      | .spt _ _ => 4295128739 ≤ v ∧ v ≤ 1461446703485210103287273052203988822378723970342
      | .tsp _ _ => -887272 ≤ v ∧ v ≤ 887271
      | .mlt _ _ => 191757530477355301479181766273477 ≤ v ∧ v ≤ 2 ^ 128 - 1
      | .ald _ _ => 0 ≤ v ∧ v ≤ 2 ^ 128 - 1
      | .reserved0 _ _ | .reserved6 _ _ | .reserved7 _ _ => False) ∧
    (∀ n : Nat, 258 ≤ n → asInt (enc n v) = v) ∧
    ∀ s : State, CompletesOk i s v

/-- The response depends on the command alone: two machines about to execute the same command get the same status, and
on a success the same value, whatever else they hold (R52, R204, R209). -/
def Obligations.ResponseDependsOnTheCommandAlone : Prop :=
  ∀ s s' : State, s.ExecDue → s'.ExecDue → s.heldCommand = s'.heldCommand →
    ∃ t t', step s = .next t ∧ step s' = .next t' ∧ t.status = t'.status ∧
      (statusCode t.status = 0 → t.res = t'.res)

/-! ## The four steps and the ports -/

/-- At an edge with `rst = 1` only RESET fires, in every state: the machine is ready, shows no response, and has delivered
none, whatever command was in flight (R190, R192). -/
def Obligations.ResetAlwaysReachesIdle : Prop :=
  ∀ s : State, s.edge.rst = true →
    ∃ t, step s = .next t ∧ AfterReset t ∧ t.responses = s.responses ∧
      t.cmdReady false = true ∧ t.rspValid = false

/-- Before the first reset the machine is stuck at an edge without reset, and an edge with reset starts it (R191). -/
def Obligations.StuckUntilTheFirstReset : Prop :=
  ∀ s : State, s.resetSeen = false →
    (s.edge.rst = false → step s = .fault .beforeFirstReset) ∧
    (s.edge.rst = true → ∃ t, step s = .next t ∧ AfterReset t)

/-- The handshakes fire their steps (R26, R32): a command shown while `cmd_ready` is 1 is latched as shown; a response
taken while `rsp_valid` is 1 is handed over as shown and leaves the machine in `IDLE`. Neither writes another register. -/
def Obligations.HandshakesFireAcceptAndDeliver : Prop :=
  ∀ s : State, s.resetSeen = true →
    (s.edge.cmdValid = true → s.cmdReady s.edge.rst = true →
      ∃ t, step s = .next t ∧ t.phase = phaseBusy ∧
        t.op = s.edge.cmdOp ∧ t.a = s.edge.cmdA ∧ t.b = s.edge.cmdB ∧
        t.res = s.res ∧ t.status = s.status ∧ t.responses = s.responses) ∧
    (s.edge.rspReady = true → s.rspValid = true → s.edge.rst = false →
      ∃ t, step s = .next t ∧ t.phase = phaseIdle ∧
        t.responses = s.responses ++ [⟨s.rspValue, s.rspStatus⟩] ∧
        t.op = s.op ∧ t.a = s.a ∧ t.b = s.b ∧ t.res = s.res ∧ t.status = s.status)

/-- A register is written by its own steps only (R20, R26): `OP`, `A`, `B` by ACCEPT, `RES` and `STATUS` by EXEC, the
host's record of responses by DELIVER, and `PHASE` by each of the three, which moves it from its own phase to the next;
and RESET, after which R33 leaves the registers unspecified. Of the model's own fields, the count of edges before EXEC
(log entry 4) is drawn at ACCEPT and counted down in `BUSY`, and the others move as log entries 6 and 7 say. -/
def Obligations.RegistersChangeOnlyInTheirSteps : Prop :=
  ∀ s t : State, step s = .next t → s.edge.rst = false →
    (t.phase ≠ s.phase →
      (s.phase = phaseIdle ∧ s.edge.cmdValid = true ∧ t.phase = phaseBusy) ∨
      (s.phase = phaseBusy ∧ s.wait = 0 ∧ t.phase = phaseDone) ∨
      (s.phase = phaseDone ∧ s.edge.rspReady = true ∧ t.phase = phaseIdle)) ∧
    ((t.op ≠ s.op ∨ t.a ≠ s.a ∨ t.b ≠ s.b) → s.phase = phaseIdle ∧ s.edge.cmdValid = true ∧ t.phase = phaseBusy) ∧
    ((t.res ≠ s.res ∨ t.status ≠ s.status) → s.phase = phaseBusy ∧ s.wait = 0 ∧ t.phase = phaseDone) ∧
    (t.responses ≠ s.responses → s.phase = phaseDone ∧ s.edge.rspReady = true ∧ t.phase = phaseIdle) ∧
    (t.wait ≠ s.wait →
      (s.phase = phaseIdle ∧ s.edge.cmdValid = true ∧ t.phase = phaseBusy) ∨
      (s.phase = phaseBusy ∧ t.phase = phaseBusy ∧ s.wait = t.wait + 1)) ∧
    t.stream = s.stream ∧ t.tick = s.tick + 1 ∧ t.inputs = s.inputs.tail ∧ t.resetSeen = s.resetSeen

/-- Under back-pressure the response is held: as long as the host neither resets nor takes it, the machine shows the same
value and status and accepts nothing (R201). -/
def Obligations.ResponseIsHeldUntilTaken : Prop :=
  ∀ (n : Nat) (s : State), s.showsResponse →
    NextInputs (fun e => e.rst = false ∧ e.rspReady = false) n s.inputs →
    ∃ t, runEdges n s = .next t ∧ t.rspValid = true ∧ t.rspValue = s.rspValue ∧ t.rspStatus = s.rspStatus ∧
      t.cmdReady false = false ∧ t.responses = s.responses

/-- A machine in `BUSY` reaches `DONE` after finitely many edges without reset, at least one, and then shows a response
to the command it holds; until then it shows none (R206, R26). The number of edges is one more than the state's count,
which is a free value at the accepting edge (log entry 4). -/
def Obligations.BusyMachineAnswersItsCommand : Prop :=
  ∀ s : State, s.resetSeen = true → s.phase = phaseBusy →
    NextInputs (fun e => e.rst = false) (s.wait + 1) s.inputs →
    (∀ n : Nat, n ≤ s.wait → ∃ u, runEdges n s = .next u ∧ u.phase = phaseBusy ∧ u.rspValid = false) ∧
    ∃ t, runEdges (s.wait + 1) s = .next t ∧ t.rspValid = true ∧ t.heldCommand = s.heldCommand ∧
      Answers (decode s.heldCommand) t.rspValue t.rspStatus

/-- A response is delivered one at a time and answers the command the machine holds (R69): from a state whose registers
agree, an edge leaves the host's record as it was or adds one response, to the held command. -/
def Obligations.EachDeliveryAnswersTheHeldCommand : Prop :=
  ∀ s t : State, s.resetSeen = true → RegistersAgree s → step s = .next t →
    t.responses = s.responses ∨
      ∃ r : Response, t.responses = s.responses ++ [r] ∧ Answers (decode s.heldCommand) r.value r.status ∧
        t.phase = phaseIdle

/-- Every program can be run and is answered, command by command and in order (R34, R69): from any state after a reset,
for every list of commands the host can drive inputs, without a reset, under which the commands the machine accepts are
exactly that list in order, it delivers exactly one response to each, with the observation the rules give it, and it ends
quiescent: in `IDLE`, the latches holding the last command and `RES`, `STATUS` the last response. -/
def Obligations.EveryProgramIsAnsweredInOrder : Prop :=
  ∀ (program : List CmdWord) (s : State), AfterReset s →
    ∃ (inputs : List EdgeInputs) (n : Nat) (t : State) (rs : List Response),
      NextInputs (fun e => e.rst = false) n inputs ∧
      acceptedIn n { s with inputs := inputs } = program ∧
      runEdges n { s with inputs := inputs } = .next t ∧ AfterReset t ∧
      t.responses = s.responses ++ rs ∧
      rs.map Response.observed = program.map (fun w => expectedObservation (decode w)) ∧
      (∀ w : CmdWord, program.getLast? = some w → t.heldCommand = w) ∧
      (∀ r : Response, rs.getLast? = some r → r = ⟨t.res, t.status⟩)

/-! ## Invariants and copies -/

/-- The registers agree right after reset (R33). -/
def Obligations.RegistersAgreeAtReset : Prop :=
  RegistersAgree State.reset

/-- Every step keeps the registers in agreement: once a reset has been seen `PHASE` is one of its three values, never 3,
and a response that is shown answers the command still held in the latches (R20, R23, R26). -/
def Obligations.EveryStepKeepsRegistersInAgreement : Prop :=
  ∀ s t : State, RegistersAgree s → step s = .next t → RegistersAgree t

/-- Any interleaving of the steps of any number of copies gives each the run it would have alone (R186). A system is a
list of states under a schedule of edges (DESIGN CHOICE, log entry 17). The copies have seen a reset: a copy that has not
is stuck and stops the system (log entry 25). -/
def Obligations.CopiesCannotObserveOneAnother : Prop :=
  ∀ (schedule : List Nat) (sys : System), (∀ s ∈ sys, s.resetSeen = true) →
    ∃ sys' : System, systemRun sys schedule = .next sys' ∧ sys'.length = sys.length ∧
      ∀ (k : Nat) (s : State), sys[k]? = some s →
        ∃ s', sys'[k]? = some s' ∧ runEdges (schedule.count k) s = .next s'

/-- The edges of two different copies commute, whether the copies go on or are stuck (R52, R186; a system and its schedule
are log entry 17). That a stuck copy stops the whole system, and by which fault, is the model's choice (log entry 25). -/
def Obligations.EdgesOfDifferentCopiesCommute : Prop :=
  ∀ (sys : System) (j k : Nat), j ≠ k → systemRun sys [j, k] = systemRun sys [k, j]

/-! ## The ports and the edges at which no step fires -/

/-- The output ports in every phase (R32): after the first reset `cmd_ready` is 1 exactly in `IDLE` while `rst` is 0,
`rsp_valid` is 1 exactly in `DONE`, and in `DONE` the response ports show `RES` and `STATUS`. -/
def Obligations.PortsFollowThePhase : Prop :=
  ∀ s : State, s.resetSeen = true →
    (∀ rst : Bool, s.cmdReady rst = true ↔ s.phase = phaseIdle ∧ rst = false) ∧
    (s.rspValid = true ↔ s.phase = phaseDone) ∧
    (s.phase = phaseDone → s.rspValue = s.res ∧ s.rspStatus = s.status)

/-- The response word has one format (R69): bits 257:0 are the value and bits 265:258 the status. The word on the ports is
made of `rsp_value` and `rsp_status`, which in `DONE` are `RES` and `STATUS`; outside `DONE` both are free (log entry
16). -/
def Obligations.PackedResponseHoldsValueAndStatus : Prop :=
  (∀ (value : Word) (status : StatusWord),
    (packRsp value status).extractLsb' 0 258 = value ∧ (packRsp value status).extractLsb' 258 8 = status) ∧
  (∀ w : RspWord, packRsp (w.extractLsb' 0 258) (w.extractLsb' 258 8) = w) ∧
  (∀ s : State, s.rspWord.extractLsb' 0 258 = s.rspValue ∧ s.rspWord.extractLsb' 258 8 = s.rspStatus ∧
    (s.showsResponse → s.rspWord.extractLsb' 0 258 = s.res ∧ s.rspWord.extractLsb' 258 8 = s.status))

/-- The state changes only by the four steps (R26): at an edge without reset, `IDLE` without a command stays `IDLE` and
`DONE` without a taker stays `DONE`, and no register changes. In `BUSY` before EXEC is due only the model's count of edges
goes down (log entry 4), and the phase code 3 stays (log entry 11). The inputs and the edge counter are the model's
bookkeeping (log entries 6 and 7). -/
def Obligations.EdgesWithoutAStepChangeNoRegister : Prop :=
  ∀ s : State, s.resetSeen = true → s.edge.rst = false →
    (s.phase = phaseIdle → s.edge.cmdValid = false →
      step s = .next { s with inputs := s.inputs.tail, tick := s.tick + 1 }) ∧
    (s.phase = phaseDone → s.edge.rspReady = false →
      step s = .next { s with inputs := s.inputs.tail, tick := s.tick + 1 }) ∧
    (s.phase = phaseBusy → s.wait ≠ 0 →
      step s = .next { s with wait := s.wait - 1, inputs := s.inputs.tail, tick := s.tick + 1 }) ∧
    (s.phase = 3 → step s = .next { s with inputs := s.inputs.tail, tick := s.tick + 1 })

/-- Whatever the host does short of a reset, every command the machine accepts is answered once and in order (R26, R69):
over any run of edges without reset, the command outstanding at the start followed by those accepted on the way are those
answered, in order, followed by the one outstanding at the end, which the latches hold; and each response delivered has
the observation the rules give its command. -/
def Obligations.AcceptedCommandsAreAnsweredInOrder : Prop :=
  ∀ (n : Nat) (s t : State), s.resetSeen = true → RegistersAgree s →
    NextInputs (fun e => e.rst = false) n s.inputs → runEdges n s = .next t →
    ∃ (answered : List CmdWord) (rs : List Response),
      s.pending ++ acceptedIn n s = answered ++ t.pending ∧
      t.responses = s.responses ++ rs ∧
      rs.map Response.observed = answered.map (fun w => expectedObservation (decode w))
end

