-- ==== Sys2Proof/Laws/Arith.lean ====
section
/-! SUPPORT. The characterisations of the quotients, shifts and bits (00_scope.md R9, R11, R12), and the constants as
numerals (20_memory.md R44). -/

namespace Sys2Proof.Machine

@[simp] theorem minTick_eq : minTick = -887272 := rfl
@[simp] theorem maxTick_eq : maxTick = 887272 := rfl
@[simp] theorem minSqrtRatio_eq : minSqrtRatio = 4295128739 := rfl
@[simp] theorem maxSqrtRatio_eq : maxSqrtRatio = 1461446703485210103287273052203988822378723970342 := rfl
@[simp] theorem maxUint128_eq : maxUint128 = 340282366920938463463374607431768211455 := rfl
@[simp] theorem maxUint256_eq :
    maxUint256 = 115792089237316195423570985008687907853269984665640564039457584007913129639935 := rfl
@[simp] theorem q32_eq : q32 = 4294967296 := rfl
@[simp] theorem logMult_eq : logMult = 255738958999603826347141 := rfl
@[simp] theorem cLow_eq : cLow = 3402992956809132418596140100660247210 := rfl
@[simp] theorem cHigh_eq : cHigh = 291339464771989622907027621153398088495 := rfl
@[simp] theorem seedEven_eq : seedEven = 340282366920938463463374607431768211456 := rfl

/-- The least integer a port cannot carry, as a numeral. -/
theorem two_pow_257 :
    (2 : Int) ^ 257 = 231584178474632390847141970017375815706539969331281128078915168015826259279872 := by decide +kernel

theorem pow2_pos (n : Nat) : 0 < pow2 n := by unfold pow2; positivity

theorem pow2_eq (n : Nat) : pow2 n = 2 ^ n := by unfold pow2; push_cast; rfl

/-- Floor division is the quotient of the library for a positive divisor. -/
theorem fdiv_eq (a b : Int) : fdiv a b = a / b := rfl

theorem shl_eq (v : Int) (n : Nat) : shl v n = v * 2 ^ n := by rw [shl, pow2_eq]

theorem shr_eq (v : Int) (n : Nat) : shr v n = v / 2 ^ n := by rw [shr, fdiv, pow2_eq]

theorem magnitude_eq (v : Int) : magnitude v = |v| := by unfold magnitude; exact Int.natCast_natAbs v

theorem fmod_eq {b : Int} (a : Int) : fmod a b = a % b := by
  unfold fmod fdiv
  have h := Int.emod_add_mul_ediv a b
  have h2 := mul_comm (a / b) b
  omega

theorem bitAt_eq (v : Int) (i : Nat) : bitAt v i = v / 2 ^ i % 2 := by rw [bitAt, fmod_eq, shr_eq]

/-- A bit is 0 or 1 (R9). -/
theorem bitAt_zero_or_one (v : Int) (i : Nat) : bitAt v i = 0 ∨ bitAt v i = 1 := by rw [bitAt_eq]; omega

/-- A floor quotient is at least `q` exactly when `q` divisors fit (R11). -/
theorem le_fdiv_iff {b : Int} (hb : 0 < b) (q a : Int) : q ≤ fdiv a b ↔ q * b ≤ a := Int.le_ediv_iff_mul_le hb

/-- A floor quotient is below `q` exactly when `q` divisors exceed the dividend (R11). -/
theorem fdiv_lt_iff {b : Int} (hb : 0 < b) (q a : Int) : fdiv a b < q ↔ a < q * b := Int.ediv_lt_iff_lt_mul hb

/-- For a dividend that is not negative, truncation is floor (R11). -/
theorem tdiv_eq_fdiv {a : Int} (ha : 0 ≤ a) (b : Int) : tdiv a b = fdiv a b := by
  unfold tdiv; rw [if_pos ha, Int.natAbs_of_nonneg ha]

end Sys2Proof.Machine
end

