-- ==== Sys2Proof/Laws/Flags.lean ====
section
/-! SUPPORT. The status words and their codes, evaluated once (10_state.md R24, 60_exceptions.md R161). -/

namespace Sys2Proof.Machine

@[simp] theorem statusOk_eq : statusOk = 0x00#8 := by decide

@[simp] theorem statusCode_statusOk : statusCode 0x00#8 = 0 := by decide

theorem statusCode_statusOf (e : Error) : statusCode (statusOf e) = errorCode e := by cases e <;> decide

theorem errorCode_ne_zero (e : Error) : errorCode e ≠ 0 := by cases e <;> decide

theorem statusCode_statusOf_ne_zero (e : Error) : statusCode (statusOf e) ≠ 0 := by
  rw [statusCode_statusOf]; exact errorCode_ne_zero e

theorem errorCode_injective {e e' : Error} (h : errorCode e = errorCode e') : e = e' := by
  revert h; cases e <;> cases e' <;> decide

theorem statusOf_injective {e e' : Error} (h : statusOf e = statusOf e') : e = e' :=
  errorCode_injective (by rw [← statusCode_statusOf, h, statusCode_statusOf])

theorem statusOf_mem_legal (e : Error) : statusOf e ∈ legalStatuses := by cases e <;> decide

theorem resultStatus_mem_legal (r : Result) : resultStatus r ∈ legalStatuses := by
  cases r with
  | ok v => exact List.mem_of_elem_eq_true rfl
  | err e => exact statusOf_mem_legal e

/-- A status shows code 0 exactly when the outcome is a success. -/
theorem statusCode_resultStatus_eq_zero (r : Result) : statusCode (resultStatus r) = 0 ↔ ∃ v, r = .ok v := by
  cases r with
  | ok v => simp [resultStatus]
  | err e => simpa [resultStatus] using statusCode_statusOf_ne_zero e

end Sys2Proof.Machine
end

