-- ==== Sys2Proof/Laws/State.lean ====
section
/-! SUPPORT. What each named register operation leaves in each field of the state, so that no later proof unfolds a
record update. -/

namespace Sys2Proof.Machine

@[simp] theorem State.succeed_phase (s : State) (v : Int) : (s.succeed v).phase = phaseDone := rfl
@[simp] theorem State.succeed_op (s : State) (v : Int) : (s.succeed v).op = s.op := rfl
@[simp] theorem State.succeed_a (s : State) (v : Int) : (s.succeed v).a = s.a := rfl
@[simp] theorem State.succeed_b (s : State) (v : Int) : (s.succeed v).b = s.b := rfl
@[simp] theorem State.succeed_res (s : State) (v : Int) : (s.succeed v).res = resultWord v := rfl
@[simp] theorem State.succeed_status (s : State) (v : Int) : (s.succeed v).status = statusOk := rfl
@[simp] theorem State.succeed_resetSeen (s : State) (v : Int) : (s.succeed v).resetSeen = s.resetSeen := rfl
@[simp] theorem State.succeed_wait (s : State) (v : Int) : (s.succeed v).wait = s.wait := rfl
@[simp] theorem State.succeed_inputs (s : State) (v : Int) : (s.succeed v).inputs = s.inputs := rfl
@[simp] theorem State.succeed_responses (s : State) (v : Int) : (s.succeed v).responses = s.responses := rfl
@[simp] theorem State.succeed_stream (s : State) (v : Int) : (s.succeed v).stream = s.stream := rfl
@[simp] theorem State.succeed_tick (s : State) (v : Int) : (s.succeed v).tick = s.tick := rfl

@[simp] theorem State.raise_phase (s : State) (e : Error) : (s.raise e).phase = phaseDone := rfl
@[simp] theorem State.raise_op (s : State) (e : Error) : (s.raise e).op = s.op := rfl
@[simp] theorem State.raise_a (s : State) (e : Error) : (s.raise e).a = s.a := rfl
@[simp] theorem State.raise_b (s : State) (e : Error) : (s.raise e).b = s.b := rfl
@[simp] theorem State.raise_res (s : State) (e : Error) : (s.raise e).res = Config.freeRes s.stream s.tick := rfl
@[simp] theorem State.raise_status (s : State) (e : Error) : (s.raise e).status = statusOf e := rfl
@[simp] theorem State.raise_resetSeen (s : State) (e : Error) : (s.raise e).resetSeen = s.resetSeen := rfl
@[simp] theorem State.raise_wait (s : State) (e : Error) : (s.raise e).wait = s.wait := rfl
@[simp] theorem State.raise_inputs (s : State) (e : Error) : (s.raise e).inputs = s.inputs := rfl
@[simp] theorem State.raise_responses (s : State) (e : Error) : (s.raise e).responses = s.responses := rfl
@[simp] theorem State.raise_stream (s : State) (e : Error) : (s.raise e).stream = s.stream := rfl
@[simp] theorem State.raise_tick (s : State) (e : Error) : (s.raise e).tick = s.tick := rfl

@[simp] theorem State.accept_phase (s : State) (o : Opcode) (x y : Word) : (s.accept o x y).phase = phaseBusy := rfl
@[simp] theorem State.accept_op (s : State) (o : Opcode) (x y : Word) : (s.accept o x y).op = o := rfl
@[simp] theorem State.accept_a (s : State) (o : Opcode) (x y : Word) : (s.accept o x y).a = x := rfl
@[simp] theorem State.accept_b (s : State) (o : Opcode) (x y : Word) : (s.accept o x y).b = y := rfl
@[simp] theorem State.accept_res (s : State) (o : Opcode) (x y : Word) : (s.accept o x y).res = s.res := rfl
@[simp] theorem State.accept_status (s : State) (o : Opcode) (x y : Word) : (s.accept o x y).status = s.status := rfl
@[simp] theorem State.accept_resetSeen (s : State) (o : Opcode) (x y : Word) :
    (s.accept o x y).resetSeen = s.resetSeen := rfl
@[simp] theorem State.accept_wait (s : State) (o : Opcode) (x y : Word) :
    (s.accept o x y).wait = Config.extraLatency s.stream s.tick o x y := rfl
@[simp] theorem State.accept_inputs (s : State) (o : Opcode) (x y : Word) : (s.accept o x y).inputs = s.inputs := rfl
@[simp] theorem State.accept_responses (s : State) (o : Opcode) (x y : Word) :
    (s.accept o x y).responses = s.responses := rfl
@[simp] theorem State.accept_stream (s : State) (o : Opcode) (x y : Word) : (s.accept o x y).stream = s.stream := rfl
@[simp] theorem State.accept_tick (s : State) (o : Opcode) (x y : Word) : (s.accept o x y).tick = s.tick := rfl

@[simp] theorem State.deliver_phase (s : State) : (s.deliver).phase = phaseIdle := rfl
@[simp] theorem State.deliver_op (s : State) : (s.deliver).op = s.op := rfl
@[simp] theorem State.deliver_a (s : State) : (s.deliver).a = s.a := rfl
@[simp] theorem State.deliver_b (s : State) : (s.deliver).b = s.b := rfl
@[simp] theorem State.deliver_res (s : State) : (s.deliver).res = s.res := rfl
@[simp] theorem State.deliver_status (s : State) : (s.deliver).status = s.status := rfl
@[simp] theorem State.deliver_resetSeen (s : State) : (s.deliver).resetSeen = s.resetSeen := rfl
@[simp] theorem State.deliver_wait (s : State) : (s.deliver).wait = s.wait := rfl
@[simp] theorem State.deliver_inputs (s : State) : (s.deliver).inputs = s.inputs := rfl
@[simp] theorem State.deliver_responses (s : State) :
    (s.deliver).responses = s.responses ++ [⟨s.res, s.status⟩] := rfl
@[simp] theorem State.deliver_stream (s : State) : (s.deliver).stream = s.stream := rfl
@[simp] theorem State.deliver_tick (s : State) : (s.deliver).tick = s.tick := rfl

@[simp] theorem State.resetStep_phase (s : State) : (s.resetStep).phase = phaseIdle := rfl
@[simp] theorem State.resetStep_op (s : State) : (s.resetStep).op = Config.freeOp s.stream s.tick := rfl
@[simp] theorem State.resetStep_a (s : State) : (s.resetStep).a = Config.freeA s.stream s.tick := rfl
@[simp] theorem State.resetStep_b (s : State) : (s.resetStep).b = Config.freeB s.stream s.tick := rfl
@[simp] theorem State.resetStep_res (s : State) : (s.resetStep).res = Config.freeResetRes s.stream s.tick := rfl
@[simp] theorem State.resetStep_status (s : State) : (s.resetStep).status = Config.freeStatus s.stream s.tick := rfl
@[simp] theorem State.resetStep_resetSeen (s : State) : (s.resetStep).resetSeen = true := rfl
@[simp] theorem State.resetStep_wait (s : State) : (s.resetStep).wait = 0 := rfl
@[simp] theorem State.resetStep_inputs (s : State) : (s.resetStep).inputs = s.inputs := rfl
@[simp] theorem State.resetStep_responses (s : State) : (s.resetStep).responses = s.responses := rfl
@[simp] theorem State.resetStep_stream (s : State) : (s.resetStep).stream = s.stream := rfl
@[simp] theorem State.resetStep_tick (s : State) : (s.resetStep).tick = s.tick := rfl

@[simp] theorem State.waitEdge_phase (s : State) : (s.waitEdge).phase = s.phase := rfl
@[simp] theorem State.waitEdge_op (s : State) : (s.waitEdge).op = s.op := rfl
@[simp] theorem State.waitEdge_a (s : State) : (s.waitEdge).a = s.a := rfl
@[simp] theorem State.waitEdge_b (s : State) : (s.waitEdge).b = s.b := rfl
@[simp] theorem State.waitEdge_res (s : State) : (s.waitEdge).res = s.res := rfl
@[simp] theorem State.waitEdge_status (s : State) : (s.waitEdge).status = s.status := rfl
@[simp] theorem State.waitEdge_resetSeen (s : State) : (s.waitEdge).resetSeen = s.resetSeen := rfl
@[simp] theorem State.waitEdge_wait (s : State) : (s.waitEdge).wait = s.wait - 1 := rfl
@[simp] theorem State.waitEdge_inputs (s : State) : (s.waitEdge).inputs = s.inputs := rfl
@[simp] theorem State.waitEdge_responses (s : State) : (s.waitEdge).responses = s.responses := rfl
@[simp] theorem State.waitEdge_stream (s : State) : (s.waitEdge).stream = s.stream := rfl
@[simp] theorem State.waitEdge_tick (s : State) : (s.waitEdge).tick = s.tick := rfl

@[simp] theorem State.advance_phase (s : State) : (s.advance).phase = s.phase := rfl
@[simp] theorem State.advance_op (s : State) : (s.advance).op = s.op := rfl
@[simp] theorem State.advance_a (s : State) : (s.advance).a = s.a := rfl
@[simp] theorem State.advance_b (s : State) : (s.advance).b = s.b := rfl
@[simp] theorem State.advance_res (s : State) : (s.advance).res = s.res := rfl
@[simp] theorem State.advance_status (s : State) : (s.advance).status = s.status := rfl
@[simp] theorem State.advance_resetSeen (s : State) : (s.advance).resetSeen = s.resetSeen := rfl
@[simp] theorem State.advance_wait (s : State) : (s.advance).wait = s.wait := rfl
@[simp] theorem State.advance_inputs (s : State) : (s.advance).inputs = s.inputs.tail := rfl
@[simp] theorem State.advance_responses (s : State) : (s.advance).responses = s.responses := rfl
@[simp] theorem State.advance_stream (s : State) : (s.advance).stream = s.stream := rfl
@[simp] theorem State.advance_tick (s : State) : (s.advance).tick = s.tick + 1 := rfl

@[simp] theorem State.holding_phase (s : State) (c : CmdWord) : (s.holding c).phase = phaseBusy := rfl
@[simp] theorem State.holding_op (s : State) (c : CmdWord) : (s.holding c).op = c.op := rfl
@[simp] theorem State.holding_a (s : State) (c : CmdWord) : (s.holding c).a = c.a := rfl
@[simp] theorem State.holding_b (s : State) (c : CmdWord) : (s.holding c).b = c.b := rfl
@[simp] theorem State.holding_res (s : State) (c : CmdWord) : (s.holding c).res = s.res := rfl
@[simp] theorem State.holding_status (s : State) (c : CmdWord) : (s.holding c).status = s.status := rfl
@[simp] theorem State.holding_resetSeen (s : State) (c : CmdWord) : (s.holding c).resetSeen = true := rfl
@[simp] theorem State.holding_wait (s : State) (c : CmdWord) : (s.holding c).wait = 0 := rfl
@[simp] theorem State.holding_inputs (s : State) (c : CmdWord) :
    (s.holding c).inputs = EdgeInputs.quiet :: s.inputs := rfl
@[simp] theorem State.holding_responses (s : State) (c : CmdWord) : (s.holding c).responses = s.responses := rfl
@[simp] theorem State.holding_stream (s : State) (c : CmdWord) : (s.holding c).stream = s.stream := rfl
@[simp] theorem State.holding_tick (s : State) (c : CmdWord) : (s.holding c).tick = s.tick := rfl

end Sys2Proof.Machine
end

