-- ==== Sys2Proof/Laws/Ops.lean ====
section
/-! SUPPORT. What the end of an operation can do to the state, said once: it writes `RES`, `STATUS` and `PHASE`
(10_state.md R26) and always answers a next state. -/

namespace Sys2Proof.Machine

@[simp] theorem finish_ok (s : State) (v : Int) : s.finish (.ok v) = s.succeed v := rfl
@[simp] theorem finish_err (s : State) (e : Error) : s.finish (.err e) = s.raise e := rfl

@[simp] theorem finish_phase (s : State) (r : Result) : (s.finish r).phase = phaseDone := by cases r <;> rfl
@[simp] theorem finish_status (s : State) (r : Result) : (s.finish r).status = resultStatus r := by cases r <;> rfl
@[simp] theorem finish_op (s : State) (r : Result) : (s.finish r).op = s.op := by cases r <;> rfl
@[simp] theorem finish_a (s : State) (r : Result) : (s.finish r).a = s.a := by cases r <;> rfl
@[simp] theorem finish_b (s : State) (r : Result) : (s.finish r).b = s.b := by cases r <;> rfl
@[simp] theorem finish_resetSeen (s : State) (r : Result) : (s.finish r).resetSeen = s.resetSeen := by cases r <;> rfl
@[simp] theorem finish_wait (s : State) (r : Result) : (s.finish r).wait = s.wait := by cases r <;> rfl
@[simp] theorem finish_inputs (s : State) (r : Result) : (s.finish r).inputs = s.inputs := by cases r <;> rfl
@[simp] theorem finish_responses (s : State) (r : Result) : (s.finish r).responses = s.responses := by cases r <;> rfl
@[simp] theorem finish_stream (s : State) (r : Result) : (s.finish r).stream = s.stream := by cases r <;> rfl
@[simp] theorem finish_tick (s : State) (r : Result) : (s.finish r).tick = s.tick := by cases r <;> rfl

/-- The result register after a success. -/
theorem finish_res_of_ok {s : State} {r : Result} {v : Int} (h : r = .ok v) :
    (s.finish r).res = resultWord v := by subst h; rfl

/-- Completing an operation answers a next state and nothing else. -/
@[simp] theorem complete_eq_next (s : State) (r : Result) : s.complete r = .next (s.finish r) := rfl

end Sys2Proof.Machine
end

