-- ==== Sys2Proof/Laws/Edge.lean ====
section
/-! SUPPORT. What one clock edge can do, said once (10_state.md R26): every meaning completes with its outcome, and an
edge that answers a next state fired exactly one of the four steps or none. -/

namespace Sys2Proof.Machine

/-- Every meaning is the completion of the command's outcome (30_encoding.md R68). -/
theorem exec_eq_finish (i : Instr) (s : State) : exec i s = .next (s.finish (execResult i)) := by cases i <;> rfl

/-- Which step an edge fires, and what state it leaves before the bookkeeping. -/
inductive Fires (e : EdgeInputs) (s : State) : State → Prop where
  | reset (h : e.rst = true) : Fires e s s.resetStep
  | accept (hr : e.rst = false) (hs : s.resetSeen = true) (hp : s.phase = phaseIdle) (hv : e.cmdValid = true) :
      Fires e s (s.accept e.cmdOp e.cmdA e.cmdB)
  | exec (hr : e.rst = false) (hs : s.resetSeen = true) (hp : s.phase = phaseBusy) (hw : s.wait = 0) :
      Fires e s (s.finish (execResult (decode s.heldCommand)))
  | wait (hr : e.rst = false) (hs : s.resetSeen = true) (hp : s.phase = phaseBusy) (hw : s.wait ≠ 0) :
      Fires e s s.waitEdge
  | deliver (hr : e.rst = false) (hs : s.resetSeen = true) (hp : s.phase = phaseDone) (hv : e.rspReady = true) :
      Fires e s s.deliver
  | none (hr : e.rst = false) (hs : s.resetSeen = true)
      (hp : s.phase ≠ phaseBusy) (hi : s.phase = phaseIdle → e.cmdValid = false)
      (hd : s.phase = phaseDone → e.rspReady = false) : Fires e s s

/-- The inversion of a step: a next state is the bookkeeping after one of the cases of `Fires`. -/
theorem step_cases {s t : State} (h : step s = .next t) : ∃ u, Fires s.edge s u ∧ t = u.advance := by
  have key : ∀ u, edgeEffect s.edge s = .next u → Fires s.edge s u := by
    intro u hu
    unfold edgeEffect at hu
    split at hu
    · next hr => cases hu; exact .reset hr
    split at hu
    · cases hu
    next hr hs =>
    have hr' : s.edge.rst = false := by simpa using hr
    have hs' : s.resetSeen = true := by simpa using hs
    split at hu
    · next hp =>
      cases hu
      split
      · next hv => exact .accept hr' hs' hp hv
      · next hv =>
        exact .none hr' hs' (by rw [hp]; decide) (fun _ => by simpa using hv)
          (fun hd => absurd (hp.symm.trans hd) (by decide))
    next hni =>
    split at hu
    · next hp =>
      split at hu
      · next hw => rw [exec_eq_finish] at hu; cases hu; exact .exec hr' hs' hp hw
      · next hw => cases hu; exact .wait hr' hs' hp hw
    next hnb =>
    split at hu
    · next hp =>
      cases hu
      split
      · next hv => exact .deliver hr' hs' hp hv
      · next hv => exact .none hr' hs' hnb (fun hi => absurd hi hni) (fun _ => by simpa using hv)
    · next hnd => cases hu; exact .none hr' hs' hnb (fun hi => absurd hi hni) (fun hd => absurd hd hnd)
  unfold step clockEdge afterEdge at h
  split at h
  · next u hu => cases h; exact ⟨u, key u hu, rfl⟩
  · cases h
  · cases h

/-- A step never refuses. -/
theorem step_ne_refused (s : State) (r : Refusal) : step s ≠ .refused r := by
  intro h
  unfold step clockEdge afterEdge at h
  split at h
  · cases h
  · cases h
  · next heq =>
    unfold edgeEffect at heq
    rw [exec_eq_finish] at heq
    split_ifs at heq

/-! The step that fires, computed: one equation per step of R26 and one for the edges inside the latency. -/

theorem step_of_reset {s : State} (hr : s.edge.rst = true) : step s = .next s.resetStep.advance := by
  simp [step, clockEdge, edgeEffect, afterEdge, hr]

theorem step_of_accept {s : State} (hs : s.resetSeen = true) (hp : s.phase = phaseIdle) (hr : s.edge.rst = false)
    (hv : s.edge.cmdValid = true) : step s = .next (s.accept s.edge.cmdOp s.edge.cmdA s.edge.cmdB).advance := by
  simp [step, clockEdge, edgeEffect, afterEdge, hs, hp, hr, hv]

theorem step_of_exec {s : State} (hs : s.resetSeen = true) (hp : s.phase = phaseBusy) (hr : s.edge.rst = false)
    (hw : s.wait = 0) : step s = .next (s.finish (execResult (decode s.heldCommand))).advance := by
  simp [step, clockEdge, edgeEffect, afterEdge, hs, hp, hr, hw, phaseIdle, phaseBusy, exec_eq_finish]

theorem step_of_wait {s : State} (hs : s.resetSeen = true) (hp : s.phase = phaseBusy) (hr : s.edge.rst = false)
    (hw : s.wait ≠ 0) : step s = .next s.waitEdge.advance := by
  simp [step, clockEdge, edgeEffect, afterEdge, hs, hp, hr, hw, phaseIdle, phaseBusy]

theorem step_of_deliver {s : State} (hs : s.resetSeen = true) (hp : s.phase = phaseDone) (hr : s.edge.rst = false)
    (hv : s.edge.rspReady = true) : step s = .next s.deliver.advance := by
  simp [step, clockEdge, edgeEffect, afterEdge, hs, hp, hr, hv, phaseDone, phaseIdle, phaseBusy]

theorem step_of_held {s : State} (hs : s.resetSeen = true) (hp : s.phase = phaseDone) (hr : s.edge.rst = false)
    (hv : s.edge.rspReady = false) : step s = .next s.advance := by
  simp [step, clockEdge, edgeEffect, afterEdge, hs, hp, hr, hv, phaseDone, phaseIdle, phaseBusy]

/-- No step after a reset undoes it. -/
theorem step_keeps_resetSeen {s t : State} (h : step s = .next t) (hs : s.resetSeen = true) : t.resetSeen = true := by
  obtain ⟨u, hu, rfl⟩ := step_cases h
  cases hu <;> simp [*]

/-- Once a reset has been seen, every edge answers a next state. -/
theorem step_total {s : State} (hs : s.resetSeen = true) : ∃ t, step s = .next t := by
  unfold step clockEdge afterEdge edgeEffect
  rw [exec_eq_finish]
  split
  · exact ⟨_, rfl⟩
  · next heq => split_ifs at heq with _ h2; exact absurd (hs.symm.trans h2) (by decide)
  · next heq => split_ifs at heq

/-- Runs compose. -/
theorem runEdges_add {m : Nat} (n : Nat) {s t : State} (h : runEdges m s = .next t) :
    runEdges (m + n) s = runEdges n t := by
  induction m generalizing s with
  | zero => cases h; rw [Nat.zero_add]
  | succ m ih =>
    rw [Nat.succ_add]
    simp only [runEdges] at h ⊢
    split at h
    · exact ih h
    · cases h
    · cases h

/-! The commands accepted along a run. -/

@[simp] theorem acceptedIn_zero (s : State) : acceptedIn 0 s = [] := rfl

theorem acceptedIn_succ {s t : State} (n : Nat) (h : step s = .next t) :
    acceptedIn (n + 1) s = s.acceptedNow.toList ++ acceptedIn n t := by simp [acceptedIn, h]

/-- Where ACCEPT fires, the command accepted is the one shown. -/
theorem acceptedNow_of_accept {s : State} (hs : s.resetSeen = true) (hp : s.phase = phaseIdle)
    (hr : s.edge.rst = false) (hv : s.edge.cmdValid = true) :
    s.acceptedNow = some (packCmd s.edge.cmdOp s.edge.cmdA s.edge.cmdB) := by
  simp [State.acceptedNow, State.cmdReady, hs, hp, hr, hv]

/-- Outside `IDLE`, and where no command is shown, none is accepted. -/
theorem acceptedNow_eq_none {s : State} (h : s.phase = phaseIdle → s.edge.cmdValid = false) :
    s.acceptedNow = none := by
  refine if_neg ?_
  rintro ⟨hs, hr, hv⟩
  simp only [State.cmdReady, hs, if_true, Bool.and_eq_true, decide_eq_true_eq] at hr
  exact absurd hv (by simp [h hr.1])

@[simp] theorem pending_of_idle {s : State} (hp : s.phase = phaseIdle) : s.pending = [] := by simp [State.pending, hp]

theorem pending_of_ne_idle {s : State} (hp : s.phase ≠ phaseIdle) : s.pending = [s.heldCommand] := by
  simp [State.pending, hp]

@[simp] theorem advance_pending (s : State) : s.advance.pending = s.pending := rfl

/-- The commands accepted along runs compose as the runs do. -/
theorem acceptedIn_add {m : Nat} (n : Nat) {s t : State} (h : runEdges m s = .next t) :
    acceptedIn (m + n) s = acceptedIn m s ++ acceptedIn n t := by
  induction m generalizing s with
  | zero => cases h; rw [Nat.zero_add]; rfl
  | succ m ih =>
    rw [Nat.succ_add]
    simp only [runEdges] at h
    split at h
    · next hs => rw [acceptedIn_succ _ hs, acceptedIn_succ _ hs, ih h, List.append_assoc]
    · cases h
    · cases h

end Sys2Proof.Machine
end

