-- ==== Sys2Proof/Laws/PerInstr.lean ====
section
/-! SUPPORT. A statement about every command as syntax: the field `op` of its word is its opcode of the map
(30_encoding.md R60, R61), whatever its operands. -/

namespace Sys2Proof.Laws.OpField

/-- The low three bits of the command word are the opcode. -/
def Statement (i : Instr) : Prop := (encode i).op = i.opcode

theorem packCmd_op (op : Opcode) (a b : Word) : (packCmd op a b).op = op := by
  unfold packCmd CmdWord.op
  rw [BitVec.extractLsb'_append_eq_of_add_le (by decide)]
  exact BitVec.extractLsb'_eq_self

theorem msb (a b : Int) : Statement (.msb a b) := packCmd_op _ _ _
theorem spt (a b : Int) : Statement (.spt a b) := packCmd_op _ _ _
theorem tsp (a b : Int) : Statement (.tsp a b) := packCmd_op _ _ _
theorem mlt (a b : Int) : Statement (.mlt a b) := packCmd_op _ _ _
theorem ald (a b : Int) : Statement (.ald a b) := packCmd_op _ _ _
theorem reserved0 (a b : Int) : Statement (.reserved0 a b) := packCmd_op _ _ _
theorem reserved6 (a b : Int) : Statement (.reserved6 a b) := packCmd_op _ _ _
theorem reserved7 (a b : Int) : Statement (.reserved7 a b) := packCmd_op _ _ _

end Sys2Proof.Laws.OpField
end

