-- ==== Sys2Proof/Machine/Asm.lean ====
section
/-! DEFINITION. The textual form of a command (30_encoding.md R71): reading one line of text, and assembling it to a
command. Only the notation of 95_test_vectors.md uses it; the machine does not. Text is a list of characters, and every
reader returns what it read and the rest (log entry 21). -/

namespace Sys2Proof.Machine

/-- An operand as written: an integer, or `%label`, the value of an earlier response. -/
inductive AsmOperand where
  | value (v : Int)
  | label (name : List Char)
  deriving DecidableEq, Repr

/-- The expected response as written after `->`. -/
inductive AsmOutcome where
  | ok (v : Int)
  | err (e : Error)
  deriving DecidableEq, Repr

/-- One line: an optional label, the opcode, the operands, and an optional expected response. -/
structure AsmLine where
  label : Option (List Char)
  op : Opcode
  a : AsmOperand
  b : AsmOperand
  outcome : Option AsmOutcome
  deriving DecidableEq, Repr

/-- The mnemonics, and the source's function names as their aliases (R71). -/
def asmMnemonics : List (List Char × Opcode) :=
  [("MSB".toList, 1), ("SPT".toList, 2), ("TSP".toList, 3), ("MLT".toList, 4), ("ALD".toList, 5),
   ("mostSignificantBit".toList, 1), ("sqrtPriceAtTick".toList, 2), ("tickAtSqrtPrice".toList, 3),
   ("maxLiquidityPerTick".toList, 4), ("addLiquidityDelta".toList, 5)]

/-- The constant names of ROM_CONST (20_memory.md R44). -/
def asmConstants : List (List Char × Int) :=
  [("MIN_TICK".toList, minTick), ("MAX_TICK".toList, maxTick), ("MIN_SQRT_RATIO".toList, minSqrtRatio),
   ("MAX_SQRT_RATIO".toList, maxSqrtRatio), ("MAX_UINT128".toList, maxUint128),
   ("MAX_UINT256".toList, maxUint256), ("Q32".toList, q32), ("Q96".toList, q96), ("LOG_MULT".toList, logMult),
   ("C_LOW".toList, cLow), ("C_HIGH".toList, cHigh), ("SEED_EVEN".toList, seedEven)]

/-- The error names (60_exceptions.md R161). -/
def asmErrors : List (List Char × Error) :=
  [("DomainError(Zero)".toList, .zero), ("DomainError(TooLarge)".toList, .tooLarge),
   ("DomainError(TickOutOfRange)".toList, .tickOutOfRange),
   ("DomainError(SqrtPriceOutOfRange)".toList, .sqrtPriceOutOfRange), ("OverflowError".toList, .overflow),
   ("UnderflowError".toList, .underflow), ("IllegalOp".toList, .illegalOp),
   ("ContractError(SpacingNotPositive)".toList, .spacingNotPositive),
   ("ContractError(NegativeLiquidity)".toList, .negativeLiquidity)]

/-- Leave out leading spaces. -/
def asmSkip (t : List Char) : List Char := t.dropWhile (· == ' ')

/-- The rest after the literal text `lit`, spaces before it left out. -/
def asmLit (lit t : List Char) : Option (List Char) :=
  let u := asmSkip t
  if u.take lit.length = lit then some (u.drop lit.length) else none

/-- A character of a name. -/
def asmNameChar (c : Char) : Bool := c.isAlphanum || c == '_'

/-- A name: one or more name characters. -/
def asmName (t : List Char) : Option (List Char × List Char) :=
  let u := asmSkip t
  if (u.takeWhile asmNameChar).isEmpty then none else some (u.takeWhile asmNameChar, u.dropWhile asmNameChar)

/-- The value of a hexadecimal digit. -/
def asmDigit (c : Char) : Option Nat :=
  if c.isDigit then some (c.toNat - 48)
  else if 97 ≤ c.toNat ∧ c.toNat ≤ 102 then some (c.toNat - 87)
  else if 65 ≤ c.toNat ∧ c.toNat ≤ 70 then some (c.toNat - 55)
  else none

/-- The number that digits of base `base` write, most significant first. -/
def asmNumber (base : Nat) : List Char → Nat → Option Nat
  | [], acc => some acc
  | c :: cs, acc =>
    match asmDigit c with
    | some d => if d < base then asmNumber base cs (acc * base + d) else none
    | none => none

/-- `decimal`, `0x hex` or `2^ decimal`. -/
def asmUnsigned (t : List Char) : Option (Int × List Char) :=
  match asmName t with
  | none => none
  | some ('0' :: 'x' :: h :: hs, rest) =>
    match asmNumber 16 (h :: hs) 0 with
    | some n => some (n, rest)
    | none => none
  | some (['2'], '^' :: rest) =>
    match asmName rest with
    | some (ds, rest') =>
      match asmNumber 10 ds 0 with
      | some n => some (pow2 n, rest')
      | none => none
    | none => none
  | some (ds, rest) =>
    match asmNumber 10 ds 0 with
    | some n => some (n, rest)
    | none => none

/-- One term of an integer: a constant's name, or an optional `-` and an unsigned number. -/
def asmTerm (t : List Char) : Option (Int × List Char) :=
  match asmLit ['-'] t with
  | some rest =>
    match asmUnsigned rest with
    | some (v, rest') => some (-v, rest')
    | none => none
  | none =>
    match asmName t with
    | some (name, rest) =>
      match asmConstants.lookup name with
      | some v => some (v, rest)
      | none => asmUnsigned t
    | none => none

/-- The terms after the first, each after `+` or `-`, added or subtracted from the left. The counter bounds how many.
A `-` that begins `->` is the arrow and ends the integer. -/
def asmTerms : Nat → Int → List Char → Option (Int × List Char)
  | 0, acc, t => some (acc, t)
  | n + 1, acc, t =>
    match asmLit ['-', '>'] t, asmLit ['+'] t, asmLit ['-'] t with
    | some _, _, _ => some (acc, t)
    | none, some rest, _ =>
      match asmTerm rest with
      | some (v, rest') => asmTerms n (acc + v) rest'
      | none => none
    | none, none, some rest =>
      match asmTerm rest with
      | some (v, rest') => asmTerms n (acc - v) rest'
      | none => none
    | none, none, none => some (acc, t)

/-- `integer`. -/
def asmInteger (t : List Char) : Option (Int × List Char) :=
  match asmTerm t with
  | some (v, rest) => asmTerms t.length v rest
  | none => none

/-- `operand`. -/
def asmOperand (t : List Char) : Option (AsmOperand × List Char) :=
  match asmLit ['%'] t with
  | some rest =>
    match asmName rest with
    | some (name, rest') => some (.label name, rest')
    | none => none
  | none =>
    match asmInteger t with
    | some (v, rest) => some (.value v, rest)
    | none => none

/-- `mnemonic`: its opcode, and whether it takes two operands. -/
def asmMnemonic (t : List Char) : Option ((Opcode × Bool) × List Char) :=
  match asmLit "(op".toList t with
  | some rest =>
    match asmSkip rest with
    | d :: rest' =>
      match asmDigit d, asmLit [')'] rest' with
      | some n, some rest'' => if n < 8 then some ((BitVec.ofNat 3 n, true), rest'') else none
      | _, _ => none
    | [] => none
  | none =>
    match asmName t with
    | some (name, rest) =>
      match asmMnemonics.lookup name with
      | some op => some ((op, op == 5), rest)
      | none => none
    | none => none

/-- An `error-name` that begins the text. -/
def asmError (t : List Char) : List (List Char × Error) → Option (Error × List Char)
  | [] => none
  | (name, e) :: more =>
    match asmLit name t with
    | some rest => some (e, rest)
    | none => asmError t more

/-- The optional `-> outcome` that ends a line. -/
def asmEnd (t : List Char) : Option (Option AsmOutcome) :=
  match asmLit "->".toList t with
  | none => if (asmSkip t).isEmpty then some none else none
  | some rest =>
    match asmLit "ok".toList rest, asmLit "err".toList rest with
    | some u, _ =>
      match asmInteger u with
      | some (v, rest') => if (asmSkip rest').isEmpty then some (some (.ok v)) else none
      | none => none
    | none, some u =>
      match asmError u asmErrors with
      | some (e, rest') => if (asmSkip rest').isEmpty then some (some (.err e)) else none
      | none => none
    | none, none => none

/-- The command after an optional label. -/
def asmCommand (label : Option (List Char)) (t : List Char) : Option AsmLine :=
  match asmMnemonic t with
  | none => none
  | some ((op, two), rest) =>
    match asmOperand rest with
    | none => none
    | some (a, rest') =>
      if two then
        match asmLit [','] rest' with
        | none => none
        | some rest'' =>
          match asmOperand rest'' with
          | none => none
          | some (b, rest''') => (asmEnd rest''').map fun o => ⟨label, op, a, b, o⟩
      else (asmEnd rest').map fun o => ⟨label, op, a, .value 0, o⟩

/-- One line of text: `identifier ":"` at its start names the command's response. -/
def asmRead (t : List Char) : Option AsmLine :=
  match asmName t with
  | some (name, rest) =>
    match asmLit [':'] rest with
    | some rest' => asmCommand (some name) rest'
    | none => asmCommand none t
  | none => asmCommand none t

/-- The integer of an operand, given the values of the labelled responses so far. -/
def asmValue (env : List (List Char × Int)) : AsmOperand → Option Int
  | .value v => some v
  | .label name => env.lookup name

/-- The command of a line, given the values of the labelled responses so far. There is none when a label has no value
or an operand cannot be presented (R62). -/
def assemble (env : List (List Char × Int)) (line : AsmLine) : Option Instr :=
  match asmValue env line.a, asmValue env line.b with
  | some a, some b => if Presentable a ∧ Presentable b then some (commandOf line.op a b) else none
  | _, _ => none

end Sys2Proof.Machine
end

