-- ==== Sys2Proof/Tests/Slice0.lean ====
section
/-! SUPPORT. The model's own tests. Expected results are the spec's: the source's worked examples and the vectors of
95_test_vectors.md, named in each comment. A witness theorem shows that a statement's hypotheses can be met. -/

namespace Sys2Proof.Tests

open Sys2Proof.Machine

/-! ## Well-formedness: one ill-formed term for each check (R62) -/

theorem test_operand_a_above_the_port_is_ill_formed : ¬ WellFormed (.msb (2 ^ 257) 0) := by decide +kernel
theorem test_operand_a_below_the_port_is_ill_formed : ¬ WellFormed (.mlt (-(2 ^ 257) - 1) 0) := by decide +kernel
theorem test_operand_b_above_the_port_is_ill_formed : ¬ WellFormed (.ald 0 (2 ^ 257)) := by decide +kernel
theorem test_operand_b_below_the_port_is_ill_formed : ¬ WellFormed (.spt 0 (-(2 ^ 257) - 1)) := by decide +kernel
theorem test_port_ends_are_well_formed : WellFormed (.reserved7 (2 ^ 257 - 1) (-(2 ^ 257))) := by decide +kernel

/-! ## Decoding: words written out from R60, `{b, a, op}`, with each constructor's opcode of R61 -/

theorem test_decode_msb : decode (1#258 ++ 5#258 ++ 0b001#3) = .msb 5 1 := by decide +kernel
theorem test_decode_spt : decode (0#258 ++ BitVec.allOnes 258 ++ 0b010#3) = .spt (-1) 0 := by decide +kernel
theorem test_decode_tsp : decode (0#258 ++ 4295128739#258 ++ 0b011#3) = .tsp 4295128739 0 := by decide +kernel
theorem test_decode_mlt : decode (12345#258 ++ 60#258 ++ 0b100#3) = .mlt 60 12345 := by decide +kernel
theorem test_decode_ald : decode (BitVec.allOnes 258 ++ 5#258 ++ 0b101#3) = .ald 5 (-1) := by decide +kernel
theorem test_decode_reserved0 : decode (0#258 ++ 0#258 ++ 0b000#3) = .reserved0 0 0 := by decide +kernel
theorem test_decode_reserved6 : decode (BitVec.allOnes 258 ++ 123#258 ++ 0b110#3) = .reserved6 123 (-1) := by
  decide +kernel
theorem test_decode_reserved7 :
    decode ((0b10#2 ++ 0#256) ++ (0b01#2 ++ BitVec.allOnes 256) ++ 0b111#3) = .reserved7 (2 ^ 257 - 1) (-(2 ^ 257)) := by
  decide +kernel

/-- The ninth command of program P3 of 95_test_vectors.md, and the packed response to it after the reset. -/
theorem test_printed_command_and_response :
    decode 0x80013b51b#519 = .tsp 4295128739 0 ∧
    packRsp (enc opw (-887272)) 0x00 =
      0x3fffffffffffffffffffffffffffffffffffffffffffffffffffffffffff27618#266 := by decide +kernel

/-- A string of bits longer than a command is no command (R60, R65). -/
theorem test_longer_word_is_refused :
    decodeBits (2 ^ 519) = .error .longerThanCommand ∧ decodeTableWord 520 (2 ^ 519) = none := by
  exact ⟨by unfold decodeBits; rw [if_neg (by decide +kernel)], by decide +kernel⟩

/-- Every row of the opcode table is decoded from its `match` bits alone, with operands of zeros. -/
theorem test_table_rows_decode :
    (List.range 8).map (decodeTableWord 8) =
      [some (.reserved0 0 0), some (.msb 0 0), some (.spt 0 0), some (.tsp 0 0), some (.mlt 0 0), some (.ald 0 0),
       some (.reserved6 0 0), some (.reserved7 0 0)] := by decide +kernel

/-! ## The units, on vectors of 95_test_vectors.md sections 2 and 3 -/

/-- V-MSB-1, 8, 13, 14, 16. -/
theorem test_msb_values :
    mostSignificantBit 1 = .ok 0 ∧ mostSignificantBit 887272 = .ok 19 ∧ mostSignificantBit (2 ^ 128) = .ok 128 ∧
    mostSignificantBit (0xDEADBEEF * 2 ^ 100) = .ok 131 ∧ mostSignificantBit (2 ^ 256 - 1) = .ok 255 := by
  decide +kernel

/-- V-MSB-17, 19, 20, 21. -/
theorem test_msb_errors :
    mostSignificantBit (2 ^ 256) = .err .tooLarge ∧ mostSignificantBit 0 = .err .zero ∧
    mostSignificantBit (-1) = .err .zero ∧ mostSignificantBit (-(2 ^ 257)) = .err .zero := by decide +kernel

/-- V-SPT-4, 5, 8, 14, 15, 16. -/
theorem test_spt_values :
    sqrtPriceAtTick 1 = .ok 79232123823359799118286999568 ∧
    sqrtPriceAtTick (-1) = .ok 79224201403219477170569942574 ∧
    sqrtPriceAtTick 3 = .ok 79240047035742135098198828268 ∧
    sqrtPriceAtTick 272158 = .ok 64330954013550134269998843803582592 ∧
    sqrtPriceAtTick 786431 = .ok 9444043285364552130156401299752495705545295692 ∧
    sqrtPriceAtTick (-786431) = .ok 664662533379 := by decide +kernel

/-- V-SPT-12, 13, 17, 18, 21, 22. -/
theorem test_spt_ends :
    sqrtPriceAtTick 524288 = .ok 19190206568837448476620805525116361302670 ∧
    sqrtPriceAtTick (-524288) = .ok 327099227039063107 ∧
    sqrtPriceAtTick 887271 = .ok 1461373636630004318706518188784493106690254656249 ∧
    sqrtPriceAtTick (-887271) = .ok 4295343490 ∧
    sqrtPriceAtTick 887273 = .err .tickOutOfRange ∧ sqrtPriceAtTick (-887273) = .err .tickOutOfRange := by
  decide +kernel

/-- V-TSP-1, 2, 3, 8, 13, 14, 23, 25, 27, 28. -/
theorem test_tsp_values :
    tickAtSqrtPrice (2 ^ 96) = .ok 0 ∧ tickAtSqrtPrice 4295128739 = .ok (-887272) ∧
    tickAtSqrtPrice 1461446703485210103287273052203988822378723970341 = .ok 887271 ∧
    tickAtSqrtPrice 118842243771396506390315925504 = .ok 8109 ∧ tickAtSqrtPrice (2 ^ 159) = .ok 873409 ∧
    tickAtSqrtPrice 1128090327061 = .ok (-775851) ∧ tickAtSqrtPrice (2 ^ 96 - 1) = .ok (-1) ∧
    tickAtSqrtPrice 1461446703485210103287273052203988822378723970342 = .err .sqrtPriceOutOfRange ∧
    tickAtSqrtPrice 4295128738 = .err .sqrtPriceOutOfRange ∧ tickAtSqrtPrice 0 = .err .sqrtPriceOutOfRange := by
  decide +kernel

/-- The logarithms and candidates of V-TSP-6 and V-TSP-12, both with a negative estimate. -/
theorem test_tsp_candidates :
    logEstimate (79224201403219477170569942574 * 2 ^ 32) 127 = -2251799813685248 ∧
    logValue (79224201403219477170569942574 * 2 ^ 32) 127 = -575872940227367173419137099681358675968 ∧
    tickLow (-575872940227367173419137099681358675968) = -2 ∧
    tickHigh (-575872940227367173419137099681358675968) = -1 ∧
    logEstimate (2 ^ 33 * 2 ^ 32) 65 = -1162144876643701751808 ∧
    tickLow (-297205720959583288732922980597150487232380928) = -873410 ∧
    tickHigh (-297205720959583288732922980597150487232380928) = -873409 := by decide +kernel

/-- V-MLT-1, 3, 6, 8, 11, 12, 13, 14. -/
theorem test_mlt_values :
    maxLiquidityPerTick .towardZero 1 = .ok 191757530477355301479181766273477 ∧
    maxLiquidityPerTick .towardZero 60 = .ok 11505743598341114571880798222544994 ∧
    maxLiquidityPerTick .towardZero 7 = .ok 1342299687665186616004191629547776 ∧
    maxLiquidityPerTick .towardZero 443637 = .ok 113427455640312821154458202477256070485 ∧
    maxLiquidityPerTick .towardZero 887273 = .ok 340282366920938463463374607431768211455 ∧
    maxLiquidityPerTick .towardZero (2 ^ 257 - 1) = .ok 340282366920938463463374607431768211455 ∧
    maxLiquidityPerTick .towardZero 0 = .err .spacingNotPositive ∧
    maxLiquidityPerTick .towardZero (-1) = .err .spacingNotPositive := by decide +kernel

/-- V-MLT-9, the other reading. -/
theorem test_mlt_other_rounding :
    maxLiquidityPerTick .towardMinusInfinity 60 = .ok 11505354575363080317263139282924270 ∧
    minUsable .towardMinusInfinity 60 = -887280 ∧ minUsable .towardZero 60 = -887220 ∧
    maxLiquidityPerTick .towardMinusInfinity 887273 = .ok 170141183460469231731687303715884105727 := by
  decide +kernel

/-- One vector for each row of R148: V-ALD-19, 21, 22, 10, 13, 26, 3, 5. -/
theorem test_ald_rows :
    addLiquidityDelta (2 ^ 128) 0 = .err .overflow ∧ addLiquidityDelta 0 (2 ^ 128) = .err .overflow ∧
    addLiquidityDelta 0 (-(2 ^ 128)) = .err .overflow ∧ addLiquidityDelta 0 (-1) = .err .underflow ∧
    addLiquidityDelta 1000 (-1) = .ok 999 ∧ addLiquidityDelta (-1) 0 = .err .negativeLiquidity ∧
    addLiquidityDelta (2 ^ 128 - 1) 1 = .err .overflow ∧
    addLiquidityDelta (2 ^ 128 - 1) 0 = .ok 340282366920938463463374607431768211455 := by decide +kernel

/-- The order of the checks, R147: V-ALD-20, 23, 29, 30, and the boundary pairs V-ALD-6, 17, 18. -/
theorem test_ald_order_of_checks :
    addLiquidityDelta (2 ^ 128) (-1) = .err .overflow ∧
    addLiquidityDelta (2 ^ 128 - 1) (-(2 ^ 128)) = .err .overflow ∧
    addLiquidityDelta (-1) (2 ^ 128) = .err .overflow ∧ addLiquidityDelta (-1) (-(2 ^ 128)) = .err .overflow ∧
    addLiquidityDelta (2 ^ 128 - 1) (-(2 ^ 128 - 1)) = .ok 0 ∧
    addLiquidityDelta 7 (2 ^ 128 - 8) = .ok 340282366920938463463374607431768211455 ∧
    addLiquidityDelta 8 (2 ^ 128 - 8) = .err .overflow := by decide +kernel

/-- R9, R12, R13 on negative integers. -/
theorem test_negative_shifts_and_or :
    shr (-1) 1 = -1 ∧ bitAt (-1) 300 = 1 ∧ lor (-8) 3 = -5 ∧ lor (-8) 3 = -8 + 3 ∧ lor 12 10 = 14 ∧ lor (-2) (-3) = -1 ∧
    cdiv 7 2 = 4 ∧ cdiv (-7) 2 = -3 ∧ tdiv (-7) 2 = -3 ∧ fdiv (-7) 2 = -4 ∧ fmod (-7) 2 = 1 := by decide +kernel

/-! ## One step -/

/-- The machine that holds the command `w` and is due to execute it. -/
def due (w : CmdWord) : State := State.reset.holding w

/-- The machine in `DONE` with a response, and the host's coming inputs. -/
def showing (value : Word) (status : StatusWord) (es : List EdgeInputs) : State :=
  { State.reset with phase := phaseDone, res := value, status := status, inputs := es }

/-- A field of the next state. -/
def nextField {α : Type} (f : State → α) (o : Host.Outcome State Fault Refusal) : Option α :=
  match o with
  | .next t => some (f t)
  | _ => none

/-- The table's word of each row runs as the first instruction after reset, with operands of zeros: the statuses of
R161 for `MSB 0`, `SPT 0`, `TSP 0`, `MLT 0`, `ALD 0, 0` and the reserved opcodes. -/
theorem test_first_instruction_after_reset :
    (List.range 8).map (fun k => nextField (·.status) (step (State.reset.withFetchWord 8 k))) =
      [some 0x87, some 0x11, some 0x00, some 0x14, some 0x88, some 0x00, some 0x87, some 0x87] := by decide +kernel

/-- V-ENC-4 to V-ENC-6: the ignored operand changes nothing. -/
theorem test_ignored_operand :
    nextField (·.res) (exec (.msb 887272 (-1)) State.reset) = some 19 ∧
    nextField (·.res) (exec (.spt (-1) (2 ^ 257 - 1)) State.reset) = some 79224201403219477170569942574 ∧
    nextField (·.res) (exec (.mlt 60 12345) State.reset) = some 11505743598341114571880798222544994 := by
  decide +kernel

/-- V-HS-1, edges 1 and 6: the command is latched, and the response is handed over as `x, 0x46`. -/
theorem test_accept_and_deliver :
    nextField (fun t => (t.phase, t.op, t.a, t.b))
      (step { State.reset with inputs := [⟨false, true, 5, 5, enc opw (-10), false⟩] }) =
        some (phaseBusy, 5, 5, enc opw (-10)) ∧
    nextField (fun t => (t.phase, t.responses)) (step (showing 7 0x46 [.take])) = some (phaseIdle, [⟨7, 0x46⟩]) := by
  decide +kernel

/-- V-HS-1, edge 5: a command offered in `DONE` is not accepted. -/
theorem test_no_accept_in_done :
    nextField (fun t => (t.phase, t.op, t.res, t.status)) (step (showing 7 0x46 [⟨false, true, 5, 0, 5, false⟩])) =
      some (phaseDone, 0, 7, 0x46) := by decide +kernel

/-- V-HS-3 and V-HS-4: reset wins over a delivery and over a command offered at the same edge. -/
theorem test_reset_wins :
    nextField (fun t => (t.phase, t.responses)) (step (showing 7 0x46 [⟨true, false, 0, 0, 0, true⟩])) =
      some (phaseIdle, []) ∧
    nextField (·.phase) (step { State.reset with inputs := [⟨true, true, 5, 0, 5, false⟩] }) = some phaseIdle := by
  decide +kernel

/-- R191: power-on without a reset is stuck. -/
theorem test_stuck_before_reset : step { State.reset with resetSeen := false } = .fault .beforeFirstReset := rfl

/-! ## The textual form (R71), on lines of 95_test_vectors.md section 4 -/

theorem test_asm_two_operands :
    (asmRead "ALD 5, -10 -> err UnderflowError".toList).map (fun l => (l.op, l.a, l.b, l.outcome)) =
      some (5, .value 5, .value (-10), some (.err .underflow)) := by decide +kernel

theorem test_asm_labels :
    (asmRead "p:   SPT 100          -> ok 79625275426524748796330556128".toList).map (fun l => (l.label, l.outcome)) =
      some (some ['p'], some (.ok 79625275426524748796330556128)) ∧
    (asmRead "b:   ALD %a, -5".toList).bind (assemble [(['a'], 7)]) = some (.ald 7 (-5)) := by decide +kernel

theorem test_asm_raw_opcode_and_powers :
    (asmRead "(op 6)  123, -1 -> err IllegalOp".toList).bind (assemble []) = some (.reserved6 123 (-1)) ∧
    (asmRead "mostSignificantBit 2^257 - 1".toList).bind (assemble []) = some (.msb (2 ^ 257 - 1) 0) ∧
    (asmRead "MSB 2^257".toList).bind (assemble []) = none ∧
    (asmRead "TSP MAX_SQRT_RATIO".toList).bind (assemble []) =
      some (.tsp 1461446703485210103287273052203988822378723970342 0) := by decide +kernel

/-! ## Witnesses: the hypotheses of each statement can be met -/

theorem witness_DecodeInvertsEncode : WellFormed (.ald (2 ^ 257 - 1) (-(2 ^ 257))) := by decide +kernel

theorem witness_StepExecutesHeldCommand :
    WellFormed (.mlt 60 0) ∧ (due (encode (.mlt 60 0))).ExecDue ∧
    (due (encode (.mlt 60 0))).heldCommand = encode (.mlt 60 0) := by decide +kernel

theorem witness_PortEncodingIsTwosComplement :
    (-(2 ^ 7) : Int) ≤ -128 ∧ (-128 : Int) < 2 ^ 7 ∧ (7 : Nat) ≤ 8 := by decide

theorem witness_QuotientsRoundAsDefined : (0 : Int) < 2 ∧ (0 : Int) ≤ 7 ∧ (-7 : Int) < 0 := by decide

theorem witness_OrActsOnTwosComplement : bitAt (-8) 2 = 0 := by decide

theorem witness_MsbIsTheHighestSetBit :
    (1 : Int) ≤ 2 ^ 256 - 1 ∧ (2 ^ 256 - 1 : Int) ≤ 2 ^ 256 - 1 := by decide +kernel

theorem witness_MsbRejectsOutsideItsDomain : (0 : Int) ≤ 0 ∧ (2 ^ 256 : Int) ≤ 2 ^ 256 := by decide +kernel

theorem witness_SptRescalesRoundingUp : (-887272 : Int) ≤ 887272 ∧ (887272 : Int) ≤ 887272 := by decide

theorem witness_LadderRatioStaysInBounds : (0 : Int) ≤ 887272 ∧ (887272 : Int) ≤ 887272 := by decide

theorem witness_BitZeroOnlyChoosesTheSeed : bitAt 887272 0 = 0 ∧ (19 : Fin 20) ∈ ladderOrder := by decide

theorem witness_SptRejectsOutsideItsDomain : (-887273 : Int) < -887272 ∧ (887272 : Int) < 887273 := by decide

theorem witness_TspRejectsOutsideItsDomain :
    (4295128738 : Int) < 4295128739 ∧
    (1461446703485210103287273052203988822378723970342 : Int) ≤ maxSqrtRatio := by decide

theorem witness_RescaledPriceHasItsTopBit :
    (4295128739 : Int) ≤ 2 ^ 96 ∧ (2 ^ 96 : Int) < 1461446703485210103287273052203988822378723970342 := by decide

theorem witness_NormalisedValueHas128Bits :
    mostSignificantBit (2 ^ 127) = .ok 127 ∧ mostSignificantBit (2 ^ 128) = .ok 128 := by decide +kernel

theorem witness_LogRoundKeepsTheRemainderNormalised :
    (2 ^ 127 : Int) ≤ (⟨2 ^ 127, 0⟩ : LogScan).r ∧ (⟨2 ^ 127, 0⟩ : LogScan).r < 2 ^ 128 := by decide +kernel

theorem witness_EachRoundAddsOneFractionBit :
    mostSignificantBit (2 ^ 128) = .ok 128 ∧ (14 : Nat) ≤ 14 ∧ (13 : Nat) < 14 := by decide +kernel

theorem witness_CandidatesAreFloorsAndDifferByAtMostOne : (cLow - 1) - cLow = -1 := by decide

theorem witness_LogarithmIsMonotoneInThePrice :
    (4295128739 : Int) ≤ 4295128739 ∧ (4295128739 : Int) ≤ 2 ^ 96 ∧
    (2 ^ 96 : Int) < 1461446703485210103287273052203988822378723970342 ∧
    mostSignificantBit (4295128739 * q32) = .ok 64 ∧ mostSignificantBit (2 ^ 96 * q32) = .ok 128 := by
  decide +kernel

/-- V-TSP-13 has equal candidates; V-TSP-4 takes the upper one and V-TSP-5 the lower. -/
theorem witness_TspTakesTheCandidateItsPriceSelects :
    mostSignificantBit (2 ^ 159 * q32) = .ok 191 ∧
    tickLow (logValue (2 ^ 159 * q32) 191) = tickHigh (logValue (2 ^ 159 * q32) 191) ∧
    mostSignificantBit (79232123823359799118286999568 * q32) = .ok 128 ∧
    tickLow (logValue (79232123823359799118286999568 * q32) 128) ≠
      tickHigh (logValue (79232123823359799118286999568 * q32) 128) ∧
    sqrtPriceAtTick (tickHigh (logValue (79232123823359799118286999568 * q32) 128)) =
      .ok 79232123823359799118286999568 ∧
    tickHigh (logValue (79232123823359799118286999567 * q32) 128) = 1 ∧
    tickLow (logValue (79232123823359799118286999567 * q32) 128) = 0 := by decide +kernel

theorem witness_TspAnswersATickOfItsRange :
    (4295128739 : Int) ≤ 4295128739 ∧
    (4295128739 : Int) < 1461446703485210103287273052203988822378723970342 := by decide

/-- Two neighbouring ticks with prices, V-SPT-3 and V-SPT-4. -/
theorem witness_SptIsStrictlyIncreasing :
    (0 : Int) < 1 ∧ sqrtPriceAtTick 0 = .ok (2 ^ 96) ∧ sqrtPriceAtTick 1 = .ok 79232123823359799118286999568 := by
  decide +kernel

/-- `2^96 + 1` lies between the prices of ticks 0 and 1, so `u = 0` meets the hypotheses of the uniqueness clause. -/
theorem witness_TspMeetsItsContract :
    (4295128739 : Int) ≤ 2 ^ 96 + 1 ∧ (2 ^ 96 + 1 : Int) < 1461446703485210103287273052203988822378723970342 ∧
    sqrtPriceAtTick 0 = .ok (2 ^ 96) ∧ sqrtPriceAtTick (0 + 1) = .ok 79232123823359799118286999568 ∧
    (2 ^ 96 : Int) ≤ 2 ^ 96 + 1 ∧ (2 ^ 96 + 1 : Int) < 79232123823359799118286999568 := by decide +kernel

/-- The greatest tick of each clause, V-SPT-17 and V-SPT-2. -/
theorem witness_RoundTripIsExactBelowMaxTick :
    sqrtPriceAtTick 887271 = .ok 1461373636630004318706518188784493106690254656249 ∧ (887271 : Int) ≤ 887271 ∧
    sqrtPriceAtTick 887272 = .ok 1461446703485210103287273052203988822378723970342 := by decide +kernel

theorem witness_MltHasItsClosedForm : (1 : Int) ≤ 60 := by decide

theorem witness_MltIsTheLargestSafeCeiling :
    (1 : Int) ≤ 60 ∧ (60 : Int) ≤ 200 ∧
    maxLiquidityPerTick minTickRounding 200 = .ok 38350317471085141830651933667504588 := by decide +kernel

theorem witness_MltRejectsNonPositiveSpacing : (0 : Int) ≤ 0 := by decide

theorem witness_RoundingMattersUnlessSpacingDivides : (1 : Int) ≤ 443637 ∧ (1 : Int) ≤ 443636 := by decide

theorem witness_ReservedOpcodesCompleteWithIllegalOp :
    AfterReset { State.reset with inputs := [.present (encode (.reserved6 123 (-1)))] } ∧
    (encode (.reserved6 123 (-1))).op = 6 ∧
    ({ State.reset with inputs := [.present (encode (.reserved6 123 (-1)))] } : State).edge.Presents
      (encode (.reserved6 123 (-1))) := by decide +kernel

theorem witness_UnusedOperandFieldsAreIgnored :
    (encode (.msb 5 0)).op = (encode (.msb 5 (-1))).op ∧ (encode (.msb 5 0)).op ≠ 5 ∧
    (encode (.msb 5 0)).a = (encode (.msb 5 (-1))).a ∧
    (encode (.reserved7 5 0)).op = (encode (.reserved7 6 1)).op ∧ (encode (.reserved7 5 0)).op = 7 := by decide +kernel

/-- One success of each operation that has one. -/
theorem witness_EveryResultLiesInItsRange :
    execResult (.msb 1 0) = .ok 0 ∧ execResult (.spt 0 0) = .ok (2 ^ 96) ∧ execResult (.tsp (2 ^ 96) 0) = .ok 0 ∧
    execResult (.mlt 1 0) = .ok 191757530477355301479181766273477 ∧ execResult (.ald 0 5) = .ok 5 := by decide +kernel

theorem witness_ResponseDependsOnTheCommandAlone :
    (due (encode (.ald 0 5))).ExecDue ∧ ({ due (encode (.ald 0 5)) with tick := 9, res := 1 } : State).ExecDue ∧
    (due (encode (.ald 0 5))).heldCommand =
      ({ due (encode (.ald 0 5)) with tick := 9, res := 1 } : State).heldCommand := by decide +kernel

theorem witness_ResetAlwaysReachesIdle : (showing 7 0x46 [⟨true, false, 0, 0, 0, true⟩]).edge.rst = true := by decide

/-- Both clauses: the coming edge without a reset, and with one. -/
theorem witness_StuckUntilTheFirstReset :
    ({ State.reset with resetSeen := false } : State).resetSeen = false ∧
    ({ State.reset with resetSeen := false } : State).edge.rst = false ∧
    ({ State.reset with resetSeen := false, inputs := [⟨true, false, 0, 0, 0, false⟩] } : State).edge.rst = true := by
  decide

/-- Both clauses: a command shown to a ready machine, and a response taken. -/
theorem witness_HandshakesFireAcceptAndDeliver :
    ({ State.reset with inputs := [.present 1] } : State).edge.cmdValid = true ∧
    ({ State.reset with inputs := [.present 1] } : State).cmdReady false = true ∧
    (showing 7 0 [.take]).edge.rspReady = true ∧ (showing 7 0 [.take]).rspValid = true ∧
    (showing 7 0 [.take]).edge.rst = false := by decide +kernel

/-- Every clause: a step that latches a command and enters `BUSY`, one that executes and enters `DONE`, one that delivers
and enters `IDLE`, and one that counts an edge of `BUSY`. -/
theorem witness_RegistersChangeOnlyInTheirSteps :
    (∃ t, step { State.reset with inputs := [.present 1] } = .next t ∧ t.op ≠ State.reset.op ∧
      t.phase ≠ State.reset.phase) ∧
    (∃ t, step (due (encode (.ald 0 5))) = .next t ∧ t.res ≠ (due (encode (.ald 0 5))).res ∧
      t.phase ≠ (due (encode (.ald 0 5))).phase) ∧
    (∃ t, step (showing 7 0 [.take]) = .next t ∧ t.responses ≠ (showing 7 0 [.take]).responses ∧
      t.phase ≠ (showing 7 0 [.take]).phase) ∧
    (∃ t, step { due 1 with wait := 1 } = .next t ∧ t.wait ≠ 1) :=
  ⟨⟨_, step_of_accept rfl rfl rfl rfl, by decide +kernel⟩, ⟨_, step_of_exec rfl rfl rfl rfl, by decide +kernel⟩,
    ⟨_, step_of_deliver rfl rfl rfl rfl, by decide +kernel⟩, ⟨_, step_of_wait rfl rfl rfl (by decide), by decide⟩⟩

theorem witness_ResponseIsHeldUntilTaken :
    (showing 7 0x46 []).showsResponse ∧
    NextInputs (fun e => e.rst = false ∧ e.rspReady = false) 2 (showing 7 0x46 []).inputs :=
  ⟨by decide, ⟨rfl, rfl⟩, ⟨rfl, rfl⟩, trivial⟩

theorem witness_BusyMachineAnswersItsCommand :
    ({ due 1 with wait := 1 } : State).resetSeen = true ∧ ({ due 1 with wait := 1 } : State).phase = phaseBusy ∧
    NextInputs (fun e => e.rst = false) 2 ({ due 1 with wait := 1 } : State).inputs :=
  ⟨rfl, rfl, rfl, rfl, trivial⟩

theorem witness_EachDeliveryAnswersTheHeldCommand :
    (showing 7 0x87 [.take]).resetSeen = true ∧ RegistersAgree (showing 7 0x87 [.take]) ∧
    ∃ t, step (showing 7 0x87 [.take]) = .next t :=
  ⟨rfl, fun _ => ⟨.inr (.inr rfl), fun _ => ⟨by decide +kernel, fun v h => by
    have : execResult (decode (showing 7 0x87 [.take]).heldCommand) = .err .illegalOp := by decide +kernel
    rw [this] at h; cases h⟩⟩, step_total rfl⟩

theorem witness_EveryProgramIsAnsweredInOrder : AfterReset State.reset := by decide

theorem witness_EveryStepKeepsRegistersInAgreement :
    RegistersAgree (due 1) ∧ ∃ t, step (due 1) = .next t :=
  ⟨fun _ => ⟨.inr (.inl rfl), fun h => absurd h (by decide : ¬ phaseBusy = phaseDone)⟩, step_total rfl⟩

theorem witness_CopiesCannotObserveOneAnother :
    (∀ s ∈ systemReset 2, s.resetSeen = true) ∧ (systemReset 2)[1]? = some { State.reset with stream := 1 } := by
  decide

theorem witness_EdgesOfDifferentCopiesCommute : (0 : Nat) ≠ 1 := by decide

/-- Each phase: `IDLE`, `BUSY` and `DONE` after a reset. -/
theorem witness_PortsFollowThePhase :
    State.reset.resetSeen = true ∧ State.reset.phase = phaseIdle ∧ (due 1).resetSeen = true ∧
    (due 1).phase = phaseBusy ∧ (showing 7 0x46 []).resetSeen = true ∧ (showing 7 0x46 []).phase = phaseDone := by decide

theorem witness_PackedResponseHoldsValueAndStatus : (showing 7 0x46 []).showsResponse := by decide

/-- Each clause: `IDLE` with a silent host, `DONE` with no taker, `BUSY` with an edge to wait, and the phase code 3. -/
theorem witness_EdgesWithoutAStepChangeNoRegister :
    (State.reset.resetSeen = true ∧ State.reset.edge.rst = false ∧ State.reset.phase = phaseIdle ∧
      State.reset.edge.cmdValid = false) ∧
    ((showing 7 0 []).resetSeen = true ∧ (showing 7 0 []).edge.rst = false ∧ (showing 7 0 []).phase = phaseDone ∧
      (showing 7 0 []).edge.rspReady = false) ∧
    (({ due 1 with wait := 1 } : State).resetSeen = true ∧ ({ due 1 with wait := 1 } : State).edge.rst = false ∧
      ({ due 1 with wait := 1 } : State).phase = phaseBusy ∧ ({ due 1 with wait := 1 } : State).wait ≠ 0) ∧
    (({ State.reset with phase := 3 } : State).resetSeen = true ∧
      ({ State.reset with phase := 3 } : State).edge.rst = false ∧
      ({ State.reset with phase := 3 } : State).phase = 3) := by decide

/-- One edge at which a command is accepted: it is pending afterwards. -/
theorem witness_AcceptedCommandsAreAnsweredInOrder :
    ({ State.reset with inputs := [.present 1] } : State).resetSeen = true ∧
    RegistersAgree { State.reset with inputs := [.present 1] } ∧
    NextInputs (fun e => e.rst = false) 1 ({ State.reset with inputs := [.present 1] } : State).inputs ∧
    ∃ t, runEdges 1 { State.reset with inputs := [.present 1] } = .next t ∧
      acceptedIn 1 { State.reset with inputs := [.present 1] } = [1] ∧ t.pending = [1] :=
  have e := step_of_accept (s := { State.reset with inputs := [.present 1] }) rfl rfl rfl rfl
  ⟨rfl, fun _ => ⟨.inl rfl, fun h => absurd h (by decide : ¬ phaseIdle = phaseDone)⟩, ⟨rfl, trivial⟩, _,
    by simp only [runEdges, e]; rfl, by rw [acceptedIn_succ _ e]; decide +kernel, by decide +kernel⟩

end Sys2Proof.Tests
end

section
/-! The port encoding (00_scope.md R10): a port word, its signed and its unsigned integer. -/

namespace Sys2Proof

/-- Every integer of the range of `n + 1` bits comes back from its port word (R10). -/
theorem asInt_enc {n : Nat} {v : Int} (hlo : -(2 ^ n) ≤ v) (hhi : v < 2 ^ n) : asInt (enc (n + 1) v) = v :=
  BitVec.toInt_ofInt_eq_self (Nat.succ_pos n) hlo hhi

/-- A port word is the encoding of its signed integer (R10). -/
theorem enc_asInt {n : Nat} (w : BitVec n) : enc n (asInt w) = w := BitVec.ofInt_toInt

/-- The signed integer is the unsigned one, less `2 ^ (n + 1)` when the top bit is set (R10). -/
theorem asInt_eq_ite_getLsbD {n : Nat} (w : BitVec (n + 1)) :
    asInt w = if w.getLsbD n then asUInt w - 2 ^ (n + 1) else asUInt w := by
  have hmsb : w.msb = w.getLsbD n := BitVec.msb_eq_getLsbD_last w
  unfold asInt asUInt
  rw [BitVec.toInt_eq_msb_cond, hmsb]
  push_cast
  rfl

/-- Widening a word by its sign keeps its signed integer (R10). -/
theorem asInt_signExtend {m n : Nat} (w : BitVec m) (h : m ≤ n) : asInt (w.signExtend n) = asInt w :=
  BitVec.toInt_signExtend_of_le h

/-- Settles O5: the range and the uniqueness from the two inverse laws of `enc` and `asInt`. -/
theorem portEncodingIsTwosComplement : Obligations.PortEncodingIsTwosComplement := by
  refine ⟨fun n v hlo hhi => ⟨asInt_enc hlo hhi, fun w hw => ?_⟩, fun n w => asInt_eq_ite_getLsbD w,
    fun m n w h => asInt_signExtend w h⟩
  rw [← hw, enc_asInt]

end Sys2Proof
end

section
/-! The quotients for a positive divisor (00_scope.md R11): the ceiling, truncation and the remainder. -/

namespace Sys2Proof.Machine

/-- A ceiling quotient is at most `q` exactly when `q` divisors reach the dividend (R11). -/
theorem cdiv_le_iff {b : Int} (hb : 0 < b) (q a : Int) : cdiv a b ≤ q ↔ a ≤ q * b :=
  calc cdiv a b ≤ q
    _ ↔ -q ≤ fdiv (-a) b := neg_le
    _ ↔ -q * b ≤ -a := le_fdiv_iff hb (-q) (-a)
    _ ↔ a ≤ q * b := by rw [neg_mul, neg_le_neg_iff]

/-- For a negative dividend, truncation is the ceiling (R11). -/
theorem tdiv_eq_cdiv {a : Int} (ha : a < 0) (b : Int) : tdiv a b = cdiv a b := by
  unfold tdiv cdiv
  rw [if_neg (not_le.mpr ha), Int.ofNat_natAbs_of_nonpos ha.le]

theorem fmod_nonneg {b : Int} (hb : 0 < b) (a : Int) : 0 ≤ fmod a b := by
  rw [fmod_eq]; exact Int.emod_nonneg a hb.ne'

theorem fmod_lt {b : Int} (hb : 0 < b) (a : Int) : fmod a b < b := by
  rw [fmod_eq]; exact Int.emod_lt_of_pos a hb

theorem fdiv_mul_add_fmod (a b : Int) : fdiv a b * b + fmod a b = a := add_sub_cancel _ _

/-- Settles O6, from the Galois law of each quotient. -/
theorem quotientsRoundAsDefined : Obligations.QuotientsRoundAsDefined := fun a b hb =>
  ⟨fun q => (le_fdiv_iff hb q a).symm, fun q => (cdiv_le_iff hb q a).symm, fun ha => tdiv_eq_fdiv ha b,
    fun ha => tdiv_eq_cdiv ha b, fmod_nonneg hb a, fmod_lt hb a, fdiv_mul_add_fmod a b⟩

end Sys2Proof.Machine
end

section
/-! The bitwise OR (00_scope.md R13). The model's `lor` is the library's `Int.lor` and its `bitAt` the library's
`Int.testBit`, so the library's laws of one binary digit, `Int.bit`, carry over to the model. -/

namespace Sys2Proof.Machine

/-- Taking the common bits away by subtraction is taking them away bit by bit: no digit borrows. -/
theorem sub_and_eq_ldiff (m n : Nat) : m - (m &&& n) = Nat.ldiff m n := by
  induction m using Nat.binaryRec generalizing n with
  | zero => simp [Nat.ldiff]
  | bit b m ih =>
    cases n using Nat.bitCasesOn with
    | bit c n =>
      have hle : m &&& n ≤ m := Nat.and_le_left
      rw [Nat.land_bit, Nat.ldiff_bit, ← ih]
      cases b <;> cases c <;> simp [Nat.bit_val] <;> omega

theorem lor_eq_intLor (a b : Int) : lor a b = Int.lor a b := by
  match a, b with
  | .ofNat m, .ofNat n => rfl
  | .ofNat m, .negSucc n => exact congrArg Int.negSucc (sub_and_eq_ldiff n m)
  | .negSucc m, .ofNat n => exact congrArg Int.negSucc (sub_and_eq_ldiff m n)
  | .negSucc m, .negSucc n => rfl

/-- OR works digit by digit: the lowest digits and the rest apart (R13). -/
theorem lor_bit (c d : Bool) (a b : Int) : lor (Int.bit c a) (Int.bit d b) = Int.bit (c || d) (lor a b) := by
  simp only [lor_eq_intLor, Int.lor_bit]

@[simp] theorem lor_zero (a : Int) : lor a 0 = a := by
  match a with
  | .ofNat m => exact congrArg Int.ofNat (Nat.or_zero m)
  | .negSucc m => exact congrArg Int.negSucc (by simp)

/-- OR is negative exactly when an operand is: the sign is the digit that repeats for ever (R13). -/
theorem lor_neg_iff (a b : Int) : lor a b < 0 ↔ a < 0 ∨ b < 0 := by
  match a, b with
  | .ofNat m, .ofNat n => simp [lor, (Int.natCast_nonneg _).not_gt]
  | .ofNat m, .negSucc n => simp [lor, Int.negSucc_lt_zero]
  | .negSucc m, .ofNat n => simp [lor, Int.negSucc_lt_zero]
  | .negSucc m, .negSucc n => simp [lor, Int.negSucc_lt_zero]

theorem bitAt_bit_zero (c : Bool) (a : Int) : bitAt (Int.bit c a) 0 = if c then 1 else 0 := by
  rw [bitAt_eq, Int.bit_val]
  cases c <;> simp

theorem bitAt_bit_succ (c : Bool) (a : Int) (i : Nat) : bitAt (Int.bit c a) (i + 1) = bitAt a i := by
  have hhalf : Int.bit c a / 2 = a := by
    rw [Int.bit_val]
    cases c
    · simp
    · simp only [cond_true]; omega
  rw [bitAt_eq, bitAt_eq, pow_succ', ← Int.ediv_ediv_of_nonneg zero_le_two, hhalf]

theorem bitAt_eq_testBit (a : Int) (i : Nat) : bitAt a i = if a.testBit i then 1 else 0 := by
  induction i generalizing a with
  | zero => cases a using Int.bitCasesOn with
    | h c a => rw [bitAt_bit_zero, Int.testBit_bit_zero]
  | succ i ih => cases a using Int.bitCasesOn with
    | h c a => rw [bitAt_bit_succ, Int.testBit_bit_succ, ih]

/-- Each bit of an OR is the OR of the bits (R13). -/
theorem bitAt_lor (a b : Int) (i : Nat) :
    bitAt (lor a b) i = if bitAt a i = 1 ∨ bitAt b i = 1 then 1 else 0 := by
  simp [bitAt_eq_testBit, lor_eq_intLor]

/-- Setting a bit that is zero adds it: by induction on the bit's index, the digits below it pass through (R13). -/
theorem lor_two_pow {a : Int} {i : Nat} (h : bitAt a i = 0) : lor a (2 ^ i) = a + 2 ^ i := by
  induction i generalizing a with
  | zero => cases a using Int.bitCasesOn with
    | h c a =>
      have hc : c = false := by simpa [bitAt_bit_zero] using h
      have hone : (2 : Int) ^ 0 = Int.bit true 0 := rfl
      rw [hc, hone, lor_bit, lor_zero]
      simp [Int.bit_val]
  | succ i ih => cases a using Int.bitCasesOn with
    | h c a =>
      have hpow : (2 : Int) ^ (i + 1) = Int.bit false (2 ^ i) := by rw [Int.bit_val, pow_succ']; simp
      rw [bitAt_bit_succ] at h
      rw [hpow, lor_bit, Bool.or_false, ih h]
      simp only [Int.bit_val, cond_false]
      ring

/-- Settles O7. -/
theorem orActsOnTwosComplement : Obligations.OrActsOnTwosComplement := fun a b =>
  ⟨bitAt_lor a b, lor_neg_iff a b, fun _ h => lor_two_pow h⟩

end Sys2Proof.Machine
end

section
/-! The register invariant and the frame of a step (10_state.md R20, R23, R26): each of the four steps, read off
`Fires`, keeps the registers in agreement and writes only its own registers. -/

namespace Sys2Proof.Machine

@[simp] theorem phaseBusy_ne_phaseIdle : phaseBusy ≠ phaseIdle := by decide
@[simp] theorem phaseDone_ne_phaseIdle : phaseDone ≠ phaseIdle := by decide
@[simp] theorem phaseDone_ne_phaseBusy : phaseDone ≠ phaseBusy := by decide
@[simp] theorem phaseIdle_ne_phaseBusy : phaseIdle ≠ phaseBusy := by decide
@[simp] theorem phaseIdle_ne_phaseDone : phaseIdle ≠ phaseDone := by decide
@[simp] theorem phaseBusy_ne_phaseDone : phaseBusy ≠ phaseDone := by decide

@[simp] theorem State.accept_heldCommand (s : State) (o : Opcode) (x y : Word) :
    (s.accept o x y).heldCommand = packCmd o x y := rfl
@[simp] theorem State.waitEdge_heldCommand (s : State) : s.waitEdge.heldCommand = s.heldCommand := rfl
@[simp] theorem State.deliver_heldCommand (s : State) : s.deliver.heldCommand = s.heldCommand := rfl
@[simp] theorem State.advance_heldCommand (s : State) : s.advance.heldCommand = s.heldCommand := rfl
@[simp] theorem finish_heldCommand (s : State) (r : Result) : (s.finish r).heldCommand = s.heldCommand := by
  simp [State.heldCommand]

/-- What EXEC leaves in `RES` and `STATUS` answers the command it executed (R26). -/
theorem answers_finish (i : Instr) (s : State) :
    Answers i (s.finish (execResult i)).res (s.finish (execResult i)).status :=
  ⟨finish_status s _, fun _ => finish_res_of_ok⟩

theorem registersAgree_of_idle {s : State} (hp : s.phase = phaseIdle) : RegistersAgree s :=
  fun _ => ⟨.inl hp, fun hd => absurd (hd.symm.trans hp) phaseDone_ne_phaseIdle⟩

theorem registersAgree_of_busy {s : State} (hp : s.phase = phaseBusy) : RegistersAgree s :=
  fun _ => ⟨.inr (.inl hp), fun hd => absurd (hd.symm.trans hp) phaseDone_ne_phaseBusy⟩

theorem registersAgree_of_answers {s : State} (hp : s.phase = phaseDone)
    (ha : Answers (decode s.heldCommand) s.res s.status) : RegistersAgree s :=
  fun _ => ⟨.inr (.inr hp), fun _ => ha⟩

/-- The bookkeeping after an edge touches nothing the invariant speaks of. -/
theorem registersAgree_advance {s : State} (h : RegistersAgree s) : RegistersAgree s.advance := h

/-- Each of the four steps, and an edge without one, keeps the registers in agreement. -/
theorem Fires.registersAgree {e : EdgeInputs} {s u : State} (hs : RegistersAgree s) (hu : Fires e s u) :
    RegistersAgree u := by
  cases hu with
  | reset _ => exact registersAgree_of_idle rfl
  | accept _ _ _ _ => exact registersAgree_of_busy rfl
  | exec _ _ _ _ =>
    refine registersAgree_of_answers (finish_phase s _) ?_
    rw [finish_heldCommand]
    exact answers_finish _ s
  | wait _ _ hp _ => exact registersAgree_of_busy hp
  | deliver _ _ _ _ => exact registersAgree_of_idle rfl
  | none _ _ _ _ _ => exact hs

/-- Settles O53, by the cases of the step that fires. -/
theorem everyStepKeepsRegistersInAgreement : Obligations.EveryStepKeepsRegistersInAgreement := by
  intro s t hs hstep
  obtain ⟨u, hu, rfl⟩ := step_cases hstep
  exact registersAgree_advance (hu.registersAgree hs)

/-- Settles O52. -/
theorem registersAgreeAtReset : Obligations.RegistersAgreeAtReset := registersAgree_of_idle rfl

/-- Settles O47: each step of `Fires` is held against every register. -/
theorem registersChangeOnlyInTheirSteps : Obligations.RegistersChangeOnlyInTheirSteps := by
  intro s t hstep hrst
  obtain ⟨u, hu, rfl⟩ := step_cases hstep
  cases hu with
  | reset h => exact absurd (hrst.symm.trans h) Bool.false_ne_true
  | accept _ _ hp hv => simp [hp, hv]
  | exec _ _ hp hw => simp [hp, hw]
  | wait _ _ hp hw =>
    have hcount : s.wait = s.wait - 1 + 1 := by omega
    simpa [hp] using fun _ => hcount
  | deliver _ _ hp hv => simp [hp, hv]
  | none _ _ _ _ _ => simp

/-- Settles O40: every meaning is the completion of its outcome, and `State.finish` has this frame. -/
theorem execWritesOnlyResStatusPhase : Obligations.ExecWritesOnlyResStatusPhase := fun i s =>
  ⟨s.finish (execResult i), exec_eq_finish i s, by simp⟩

end Sys2Proof.Machine
end

section
/-! The ports and the handshakes (10_state.md R26, R32), and the edges at which no step fires. -/

namespace Sys2Proof.Machine

theorem cmdReady_iff {s : State} (hs : s.resetSeen = true) (rst : Bool) :
    s.cmdReady rst = true ↔ s.phase = phaseIdle ∧ rst = false := by simp [State.cmdReady, hs]

theorem rspValid_iff {s : State} (hs : s.resetSeen = true) : s.rspValid = true ↔ s.phase = phaseDone := by
  simp [State.rspValid, hs]

theorem rspValue_of_showsResponse {s : State} (h : s.showsResponse) : s.rspValue = s.res := if_pos h

theorem rspStatus_of_showsResponse {s : State} (h : s.showsResponse) : s.rspStatus = s.status := if_pos h

/-- Settles O56. -/
theorem portsFollowThePhase : Obligations.PortsFollowThePhase := fun _ hs =>
  ⟨cmdReady_iff hs, rspValid_iff hs,
    fun hp => ⟨rspValue_of_showsResponse ⟨hs, hp⟩, rspStatus_of_showsResponse ⟨hs, hp⟩⟩⟩

/-- Settles O46, from the equations of the ACCEPT and the DELIVER step. -/
theorem handshakesFireAcceptAndDeliver : Obligations.HandshakesFireAcceptAndDeliver := by
  intro s hs
  refine ⟨fun hv hready => ?_, fun hv hvalid hr => ?_⟩
  · obtain ⟨hp, hr⟩ := (cmdReady_iff hs _).1 hready
    exact ⟨_, step_of_accept hs hp hr hv, by simp⟩
  · have hp := (rspValid_iff hs).1 hvalid
    rw [rspValue_of_showsResponse ⟨hs, hp⟩, rspStatus_of_showsResponse ⟨hs, hp⟩]
    exact ⟨_, step_of_deliver hs hp hr hv, by simp⟩

/-- The edge at which no step is enabled, computed: only the bookkeeping happens (R26). -/
theorem step_of_no_step {s : State} (hs : s.resetSeen = true) (hr : s.edge.rst = false) (hb : s.phase ≠ phaseBusy)
    (hi : s.phase = phaseIdle → s.edge.cmdValid = false) (hd : s.phase = phaseDone → s.edge.rspReady = false) :
    step s = .next s.advance := by
  obtain ⟨t, ht⟩ := step_total hs
  obtain ⟨u, hu, rfl⟩ := step_cases ht
  cases hu with
  | reset h => exact absurd (hr.symm.trans h) Bool.false_ne_true
  | accept _ _ hp hv => exact absurd ((hi hp).symm.trans hv) Bool.false_ne_true
  | exec _ _ hp _ => exact absurd hp hb
  | wait _ _ hp _ => exact absurd hp hb
  | deliver _ _ hp hv => exact absurd ((hd hp).symm.trans hv) Bool.false_ne_true
  | none _ _ _ _ _ => exact ht

/-- Settles O58: `State.advance` is the bookkeeping that the statement writes out. -/
theorem edgesWithoutAStepChangeNoRegister : Obligations.EdgesWithoutAStepChangeNoRegister := by
  intro s hs hr
  refine ⟨fun hp hv => ?_, fun hp hv => ?_, fun hp hw => ?_, fun hp => ?_⟩
  · exact step_of_no_step hs hr (by simp [hp]) (fun _ => hv) (by simp [hp])
  · exact step_of_held hs hp hr hv
  · exact step_of_wait hs hp hr hw
  · exact step_of_no_step hs hr (by rw [hp]; decide) (fun h => absurd (hp.symm.trans h) (by decide))
      (fun h => absurd (hp.symm.trans h) (by decide))

end Sys2Proof.Machine
end

section
/-! The response to a command, and runs without a reset (10_state.md R34): the commands accepted are answered one by
one and in order, whatever the host does. -/

namespace Sys2Proof.Machine

/-- A response that answers a command shows what the rules give the command (R34, R69). -/
theorem observed_of_answers {i : Instr} {value : Word} {status : StatusWord} (h : Answers i value status) :
    (Response.mk value status).observed = expectedObservation i := by
  obtain ⟨hstatus, hvalue⟩ := h
  cases hi : execResult i with
  | ok v => simp [Response.observed, expectedObservation, hi, hstatus, hvalue v hi, resultStatus]
  | err e =>
    have hcode := statusCode_statusOf_ne_zero e
    simpa [Response.observed, expectedObservation, hi, hstatus, resultStatus] using hcode

@[simp] theorem State.accept_pending (s : State) (o : Opcode) (x y : Word) :
    (s.accept o x y).pending = [packCmd o x y] := pending_of_ne_idle phaseBusy_ne_phaseIdle
@[simp] theorem State.waitEdge_pending (s : State) : s.waitEdge.pending = s.pending := rfl
@[simp] theorem State.deliver_pending (s : State) : s.deliver.pending = [] := pending_of_idle rfl
@[simp] theorem finish_pending (s : State) (r : Result) : (s.finish r).pending = [s.heldCommand] := by
  simp [State.pending]

/-- Every edge uses up one record of the host's inputs. -/
theorem step_inputs {s t : State} (h : step s = .next t) : t.inputs = s.inputs.tail := by
  obtain ⟨u, hu, rfl⟩ := step_cases h
  cases hu <;> simp

/-- Between the states `s` and `t` the commands `accepted` come in, and those answered with them are, in order, the
one pending before, those accepted, less the one pending after (R26). -/
def AnswersInOrder (s : State) (accepted : List CmdWord) (t : State) : Prop :=
  ∃ (answered : List CmdWord) (rs : List Response),
    s.pending ++ accepted = answered ++ t.pending ∧ t.responses = s.responses ++ rs ∧
      rs.map Response.observed = answered.map fun w => expectedObservation (decode w)

/-- Nothing is delivered, and what was pending or accepted is pending. -/
theorem answersInOrder_of_no_delivery {s t : State} {accepted : List CmdWord}
    (hp : s.pending ++ accepted = t.pending) (hr : t.responses = s.responses) : AnswersInOrder s accepted t :=
  ⟨[], [], hp, by simp [hr], rfl⟩

theorem AnswersInOrder.trans {s t u : State} {ws ws' : List CmdWord} (h : AnswersInOrder s ws t)
    (h' : AnswersInOrder t ws' u) : AnswersInOrder s (ws ++ ws') u := by
  obtain ⟨done, rs, hpending, hresponses, hobserved⟩ := h
  obtain ⟨done', rs', hpending', hresponses', hobserved'⟩ := h'
  refine ⟨done ++ done', rs ++ rs', ?_, ?_, ?_⟩
  · calc s.pending ++ (ws ++ ws')
      _ = done ++ (t.pending ++ ws') := by rw [← List.append_assoc, hpending, List.append_assoc]
      _ = done ++ done' ++ u.pending := by rw [hpending', List.append_assoc]
  · rw [hresponses', hresponses, List.append_assoc]
  · rw [List.map_append, List.map_append, hobserved, hobserved']

/-- One edge without reset answers in order: only DELIVER answers, and it answers the command held (R26). -/
theorem answersInOrder_step {s t : State} (ha : RegistersAgree s) (hr : s.edge.rst = false) (h : step s = .next t) :
    AnswersInOrder s s.acceptedNow.toList t := by
  obtain ⟨u, hu, rfl⟩ := step_cases h
  cases hu with
  | reset hreset => exact absurd (hr.symm.trans hreset) Bool.false_ne_true
  | accept _ hs hp hv =>
    exact answersInOrder_of_no_delivery
      (by simp [acceptedNow_of_accept hs hp hr hv, hp]) (by simp)
  | exec _ _ hp _ =>
    exact answersInOrder_of_no_delivery
      (by simp [acceptedNow_eq_none, hp, pending_of_ne_idle]) (by simp)
  | wait _ _ hp _ =>
    exact answersInOrder_of_no_delivery
      (by simp [acceptedNow_eq_none, hp, pending_of_ne_idle]) (by simp)
  | deliver _ hs hp _ =>
    have hanswer := observed_of_answers ((ha hs).2 hp)
    exact ⟨[s.heldCommand], [⟨s.res, s.status⟩],
      by simp [acceptedNow_eq_none, hp, pending_of_ne_idle], by simp, by simp [hanswer]⟩
  | none _ _ _ hi _ =>
    exact answersInOrder_of_no_delivery (by simp [acceptedNow_eq_none hi]) (by simp)

/-- Every run without reset answers in order, by induction on its edges. -/
theorem answersInOrder_run {n : Nat} {s t : State} (hs : s.resetSeen = true) (ha : RegistersAgree s)
    (hin : NextInputs (fun e => e.rst = false) n s.inputs) (h : runEdges n s = .next t) :
    AnswersInOrder s (acceptedIn n s) t := by
  induction n generalizing s with
  | zero =>
    cases h
    exact answersInOrder_of_no_delivery (by simp) rfl
  | succ n ih =>
    obtain ⟨hr, hrest⟩ := hin
    obtain ⟨u, hu⟩ := step_total hs
    rw [acceptedIn_succ n hu]
    refine (answersInOrder_step ha hr hu).trans (ih (step_keeps_resetSeen hu hs)
      (everyStepKeepsRegistersInAgreement s u ha hu) (step_inputs hu ▸ hrest) ?_)
    simpa only [runEdges, hu] using h

/-- Settles O59. -/
theorem acceptedCommandsAreAnsweredInOrder : Obligations.AcceptedCommandsAreAnsweredInOrder :=
  fun _ _ _ hs ha hin h => answersInOrder_run hs ha hin h

end Sys2Proof.Machine
end

section
/-! The fields of a packed command (30_encoding.md R60), and decoding the word of a command. -/

namespace Sys2Proof

@[simp] theorem packCmd_op (op : Opcode) (a b : Word) : (packCmd op a b).op = op :=
  Laws.OpField.packCmd_op op a b

@[simp] theorem packCmd_a (op : Opcode) (a b : Word) : (packCmd op a b).a = a := by
  unfold packCmd CmdWord.a
  rw [BitVec.extractLsb'_append_eq_of_le le_rfl, BitVec.extractLsb'_append_eq_of_add_le (by decide)]
  exact BitVec.extractLsb'_eq_self

@[simp] theorem packCmd_b (op : Opcode) (a b : Word) : (packCmd op a b).b = b := by
  unfold packCmd CmdWord.b
  rw [BitVec.extractLsb'_append_eq_of_le (by decide)]
  exact BitVec.extractLsb'_append_eq_left

/-- A command word is the packing of its three fields: no bit of it belongs to none (R60). -/
@[simp] theorem packCmd_fields (w : CmdWord) : packCmd w.op w.a w.b = w := by
  unfold packCmd CmdWord.op CmdWord.a CmdWord.b
  rw [BitVec.extractLsb'_append_extractLsb'_eq_extractLsb' (start₂ := 261) (start₁ := 3) rfl,
    BitVec.extractLsb'_append_extractLsb'_eq_extractLsb' (start₂ := 3) (start₁ := 0) rfl]
  exact BitVec.extractLsb'_eq_self

theorem commandOf_opcode (i : Instr) : commandOf i.opcode i.opA i.opB = i := by cases i <;> rfl

/-- An operand that a port can carry comes back from its field (R62). -/
theorem asInt_enc_of_presentable {v : Int} (h : Presentable v) : asInt (enc opw v) = v := asInt_enc h.1 h.2

/-- The word of a well-formed command decodes to the command (R60, R61, R62). -/
theorem decode_encode {i : Instr} (h : WellFormed i) : decode (encode i) = i := by
  obtain ⟨ha, hb⟩ := h
  unfold decode encode
  rw [packCmd_op, packCmd_a, packCmd_b, asInt_enc_of_presentable ha, asInt_enc_of_presentable hb, commandOf_opcode]

/-- Settles O4: the EXEC step is `exec` of the decoded word, and the decoded word is the command. -/
theorem stepExecutesHeldCommand : Obligations.StepExecutesHeldCommand := by
  intro s i hwf hdue hheld
  obtain ⟨hs, hp, hw, hr⟩ := hdue
  rw [Machine.step_of_exec hs hp hr hw, hheld, decode_encode hwf, Machine.exec_eq_finish]
  rfl

end Sys2Proof
end

section
/-! Running a program (10_state.md R34): inputs that present each command in turn, wait for its response and take it. -/

namespace Sys2Proof.Machine

/-- Under the inputs `driven`, none of them a reset, the machine goes from `s` to `t` and accepts the commands `ws` on
the way, whatever inputs `later` follow. -/
def Drives (s : State) (driven : List EdgeInputs) (ws : List CmdWord) (t : State) : Prop :=
  ∀ later : List EdgeInputs,
    NextInputs (fun e => e.rst = false) driven.length (driven ++ later) ∧
    runEdges driven.length { s with inputs := driven ++ later } = .next { t with inputs := later } ∧
    acceptedIn driven.length { s with inputs := driven ++ later } = ws

theorem nextInputs_append {p : EdgeInputs → Prop} {es es' later : List EdgeInputs}
    (h : NextInputs p es.length (es ++ (es' ++ later))) (h' : NextInputs p es'.length (es' ++ later)) :
    NextInputs p (es.length + es'.length) (es ++ (es' ++ later)) := by
  induction es with
  | nil => rwa [List.length_nil, Nat.zero_add]
  | cons e es ih =>
    rw [List.length_cons, Nat.succ_add]
    exact ⟨h.1, ih h.2⟩

theorem Drives.refl (s : State) : Drives s [] [] s := fun _ => ⟨trivial, rfl, rfl⟩

theorem Drives.trans {s t u : State} {es es' : List EdgeInputs} {ws ws' : List CmdWord} (h : Drives s es ws t)
    (h' : Drives t es' ws' u) : Drives s (es ++ es') (ws ++ ws') u := by
  intro later
  obtain ⟨hrst, hrun, hacc⟩ := h (es' ++ later)
  obtain ⟨hrst', hrun', hacc'⟩ := h' later
  rw [List.length_append, List.append_assoc]
  exact ⟨nextInputs_append hrst hrst', by rw [runEdges_add _ hrun, hrun'],
    by rw [acceptedIn_add _ hrun, hacc, hacc']⟩

/-- One edge drives the machine to the state it steps to. -/
theorem drives_edge {s t : State} {e : EdgeInputs} {ws : List CmdWord} (hr : e.rst = false)
    (hstep : ∀ later, step { s with inputs := e :: later } = .next { t with inputs := later })
    (hacc : ∀ later, ({ s with inputs := e :: later } : State).acceptedNow.toList = ws) : Drives s [e] ws t := by
  intro later
  refine ⟨⟨hr, trivial⟩, ?_, ?_⟩
  · simp [runEdges, hstep later]
  · simp [acceptedIn_succ 0 (hstep later), hacc later]

/-- A ready machine accepts the command presented (R26). -/
theorem drives_accept {s : State} (hs : AfterReset s) (w : CmdWord) :
    Drives s [.present w] [w] (s.accept w.op w.a w.b).advance := by
  obtain ⟨hseen, hp⟩ := hs
  refine drives_edge rfl (fun later => step_of_accept hseen hp rfl rfl) fun later => ?_
  have hnow := acceptedNow_of_accept (s := { s with inputs := EdgeInputs.present w :: later }) hseen hp rfl rfl
  rw [hnow]
  exact congrArg (fun c => [c]) (packCmd_fields w)

/-- An edge outside `IDLE` accepts nothing. -/
theorem drives_edge_of_ne_idle {s t : State} {e : EdgeInputs} (hp : s.phase ≠ phaseIdle) (hr : e.rst = false)
    (hstep : ∀ later, step { s with inputs := e :: later } = .next { t with inputs := later }) : Drives s [e] [] t := by
  refine drives_edge hr hstep fun later => ?_
  have hnone : ({ s with inputs := e :: later } : State).acceptedNow = none := acceptedNow_eq_none fun h => absurd h hp
  rw [hnone, Option.toList_none]

/-- A quiet edge inside the latency counts it down (R206). -/
theorem drives_wait {s : State} (hs : s.resetSeen = true) (hp : s.phase = phaseBusy) (hw : s.wait ≠ 0) :
    Drives s [.quiet] [] s.waitEdge.advance :=
  drives_edge_of_ne_idle (by simp [hp]) rfl fun _ => step_of_wait hs hp rfl hw

theorem finish_with_inputs (s : State) (es : List EdgeInputs) (r : Result) :
    ({ s with inputs := es } : State).finish r = { s.finish r with inputs := es } := by cases r <;> rfl

/-- A quiet edge at the end of the latency executes the held command (R26). -/
theorem drives_exec {s : State} (hs : s.resetSeen = true) (hp : s.phase = phaseBusy) (hw : s.wait = 0) :
    Drives s [.quiet] [] (s.finish (execResult (decode s.heldCommand))).advance := by
  refine drives_edge_of_ne_idle (by simp [hp]) rfl fun later => ?_
  have hstep := step_of_exec (s := { s with inputs := EdgeInputs.quiet :: later }) hs hp rfl hw
  rw [hstep, finish_with_inputs]
  rfl

/-- A host that is ready takes the response shown (R26). -/
theorem drives_deliver {s : State} (hs : s.showsResponse) : Drives s [.take] [] s.deliver.advance :=
  drives_edge_of_ne_idle (by simp [hs.2]) rfl fun _ => step_of_deliver hs.1 hs.2 rfl rfl

/-- A busy machine can be driven to show a response to the command it holds, by induction on its count of edges. -/
theorem drives_busy_to_response {s : State} (hs : s.resetSeen = true) (hp : s.phase = phaseBusy) :
    ∃ es t, Drives s es [] t ∧ t.showsResponse ∧ t.heldCommand = s.heldCommand ∧ t.responses = s.responses ∧
      Answers (decode s.heldCommand) t.res t.status := by
  induction hk : s.wait generalizing s with
  | zero =>
    exact ⟨_, _, drives_exec hs hp hk, ⟨by simpa using hs, by simp⟩, by simp, by simp, answers_finish _ s⟩
  | succ k ih =>
    obtain ⟨es, t, hdrives, hrest⟩ := ih (s := s.waitEdge.advance) hs hp (by simp [hk])
    exact ⟨_, t, (drives_wait hs hp (by simp [hk])).trans hdrives, hrest⟩

/-- One command: a ready machine can be driven to accept it, to answer it, and to be ready again. -/
theorem drives_command {s : State} (hs : AfterReset s) (w : CmdWord) :
    ∃ es t, Drives s es [w] t ∧ AfterReset t ∧ t.heldCommand = w ∧ t.responses = s.responses ++ [⟨t.res, t.status⟩] ∧
      (Response.mk t.res t.status).observed = expectedObservation (decode w) := by
  have hseen : (s.accept w.op w.a w.b).advance.resetSeen = true := hs.1
  have hheld : (s.accept w.op w.a w.b).advance.heldCommand = w := packCmd_fields w
  obtain ⟨es, t, hdrives, hshows, hkept, hresponses, hanswers⟩ := drives_busy_to_response hseen rfl
  rw [hheld] at hkept hanswers
  refine ⟨_, _, ((drives_accept hs w).trans hdrives).trans (drives_deliver hshows), ⟨hshows.1, rfl⟩, hkept, ?_,
    observed_of_answers hanswers⟩
  exact congrArg (· ++ [⟨t.res, t.status⟩]) hresponses

/-- A program run to its end: the state after it, quiescent, and the responses to its commands in order (R34). -/
structure RunsProgram (s : State) (program : List CmdWord) (es : List EdgeInputs) (t : State)
    (rs : List Response) : Prop where
  drives : Drives s es program t
  afterReset : AfterReset t
  responses : t.responses = s.responses ++ rs
  observed : rs.map Response.observed = program.map fun w => expectedObservation (decode w)
  held : ∀ w, program.getLast? = some w → t.heldCommand = w
  last : ∀ r, rs.getLast? = some r → r = ⟨t.res, t.status⟩

/-- Every program can be run to its end, command by command. -/
theorem exists_runsProgram {s : State} (hs : AfterReset s) (program : List CmdWord) :
    ∃ es t rs, RunsProgram s program es t rs := by
  induction program using List.reverseRecOn with
  | nil => exact ⟨[], s, [], Drives.refl s, hs, by simp, rfl, by simp, by simp⟩
  | append_singleton ws w ih =>
    obtain ⟨es, t, rs, hrun⟩ := ih
    obtain ⟨es', t', hdrives, hready, hheld, hresponses, hobserved⟩ := drives_command hrun.afterReset w
    exact ⟨es ++ es', t', rs ++ [⟨t'.res, t'.status⟩],
      { drives := hrun.drives.trans hdrives
        afterReset := hready
        responses := by rw [hresponses, hrun.responses, List.append_assoc]
        observed := by simp [hrun.observed, hobserved]
        held := by simp [hheld]
        last := by simp }⟩

/-- Settles O51, with inputs that end when the last response is taken. -/
theorem everyProgramIsAnsweredInOrder : Obligations.EveryProgramIsAnsweredInOrder := by
  intro program s hs
  obtain ⟨es, t, rs, hrun⟩ := exists_runsProgram hs program
  obtain ⟨hrst, hedges, haccepted⟩ := hrun.drives []
  rw [List.append_nil] at hrst hedges haccepted
  exact ⟨es, es.length, { t with inputs := [] }, rs, hrst, haccepted, hedges, hrun.afterReset, hrun.responses,
    hrun.observed, hrun.held, hrun.last⟩

end Sys2Proof.Machine
end

section
/-! What `MSB` computes (40_msb_finder.md R91, R92): the table of powers halves the number of bits that are left. -/

namespace Sys2Proof.Machine

/-- The scan has shifted `x` right by the count in `acc`, and at most `bits` bits are left. -/
def MsbScanned (x : Int) (bits : Nat) (st : MsbScan) : Prop :=
  ∃ shift : Nat, st.acc = shift ∧ st.rem = x / 2 ^ shift ∧ 1 ≤ st.rem ∧ st.rem < 2 ^ bits

/-- The table entry of exponent `e` halves `2 * e` remaining bits. -/
theorem msbScanned_msbRound {x : Int} {st : MsbScan} {j : Fin 8} {e : Nat} (hj : romPow2 j = ((e : Int), 2 ^ e))
    (h : MsbScanned x (2 * e) st) : MsbScanned x e (msbRound st j) := by
  obtain ⟨shift, hacc, hrem, hpos, hlt⟩ := h
  have hpow : (0 : Int) < 2 ^ e := by positivity
  unfold msbRound
  rw [hj]
  split
  · next hle =>
    refine ⟨shift + e, by simp [hacc], ?_, (le_fdiv_iff hpow _ _).2 (by simpa using hle),
      (fdiv_lt_iff hpow _ _).2 (by rwa [← pow_add, ← two_mul])⟩
    rw [fdiv_eq, hrem, pow_add, Int.ediv_ediv_of_nonneg (by positivity)]
  · next hlt => exact ⟨shift, hacc, hrem, hpos, not_le.mp hlt⟩

/-- After the eight entries one bit is left. -/
theorem msbScanned_foldl {x : Int} (hlo : 1 ≤ x) (hhi : x < 2 ^ 256) :
    MsbScanned x 1 (pow2Order.foldl msbRound ⟨x, 0⟩) := by
  have h256 : MsbScanned x (2 * 128) ⟨x, 0⟩ := ⟨0, rfl, by simp, hlo, hhi⟩
  have h128 := msbScanned_msbRound (j := 0) (e := 128) (by decide +kernel) h256
  have h64 := msbScanned_msbRound (j := 1) (e := 64) (by decide +kernel) h128
  have h32 := msbScanned_msbRound (j := 2) (e := 32) (by decide +kernel) h64
  have h16 := msbScanned_msbRound (j := 3) (e := 16) (by decide +kernel) h32
  have h8 := msbScanned_msbRound (j := 4) (e := 8) (by decide +kernel) h16
  have h4 := msbScanned_msbRound (j := 5) (e := 4) (by decide +kernel) h8
  have h2 := msbScanned_msbRound (j := 6) (e := 2) (by decide +kernel) h4
  exact msbScanned_msbRound (j := 7) (e := 1) (by decide +kernel) h2

/-- The scan ends with the remaining value 1 and the index of the highest set bit (R92). -/
theorem msbScan_spec {x : Int} (hlo : 1 ≤ x) (hhi : x < 2 ^ 256) :
    (pow2Order.foldl msbRound ⟨x, 0⟩).rem = 1 ∧
      ∃ m : Nat, (pow2Order.foldl msbRound ⟨x, 0⟩).acc = m ∧ 2 ^ m ≤ x ∧ x < 2 ^ (m + 1) := by
  obtain ⟨m, hacc, hrem, hpos, hlt⟩ := msbScanned_foldl hlo hhi
  have hone : x / 2 ^ m = 1 := by omega
  have hpow : (0 : Int) < 2 ^ m := by positivity
  refine ⟨hrem.trans hone, m, hacc, ?_, ?_⟩
  · simpa using (Int.le_ediv_iff_mul_le hpow).1 hone.ge
  · have hlt2 : x / 2 ^ m < 2 := by omega
    rw [pow_succ']
    exact (Int.ediv_lt_iff_lt_mul hpow).1 hlt2

/-- `MSB` of an operand of its domain succeeds with the index of the highest set bit (R91, R92). -/
theorem mostSignificantBit_eq_ok {x : Int} (hlo : 1 ≤ x) (hhi : x < 2 ^ 256) :
    ∃ m : Nat, mostSignificantBit x = .ok m ∧ 2 ^ m ≤ x ∧ x < 2 ^ (m + 1) := by
  obtain ⟨-, m, hacc, hbounds⟩ := msbScan_spec hlo hhi
  refine ⟨m, ?_, hbounds⟩
  unfold mostSignificantBit
  rw [if_neg (by omega), if_neg (by rw [maxUint256_eq]; omega), hacc]

end Sys2Proof.Machine
end

section
/-! The logarithm of `TSP` (42_sqrtprice_to_tick.md R119 to R124), followed with its extracted bits as an integer: what
it takes to bound the upper candidate. -/

namespace Sys2Proof.Machine

/-- Normalising brings the top bit of `v` to bit 127 (R119). -/
theorem normalise_bounds {v : Int} {m : Nat} (hlo : 2 ^ m ≤ v) (hhi : v < 2 ^ (m + 1)) :
    2 ^ 127 ≤ normalise v m ∧ normalise v m < 2 ^ 128 := by
  unfold normalise
  split
  · next hm =>
    obtain ⟨k, rfl⟩ : ∃ k, m = 127 + k := ⟨m - 127, by omega⟩
    have hk : ((127 + k : Nat) - 127 : Int).toNat = k := by omega
    have hpow : (0 : Int) < 2 ^ k := by positivity
    rw [hk, shr_eq, Int.le_ediv_iff_mul_le hpow, Int.ediv_lt_iff_lt_mul hpow, ← pow_add, ← pow_add]
    exact ⟨hlo, by rwa [add_right_comm] at hhi⟩
  · next hm =>
    obtain ⟨k, hk⟩ : ∃ k, m + k = 127 := ⟨127 - m, by omega⟩
    have hk' : (127 - m : Int).toNat = k := by omega
    have hpow : (0 : Int) < 2 ^ k := by positivity
    have h127 : (2 : Int) ^ 127 = 2 ^ m * 2 ^ k := by rw [← pow_add, hk]
    have h128 : (2 : Int) ^ 128 = 2 ^ (m + 1) * 2 ^ k := by rw [← pow_add, add_right_comm, hk]
    rw [hk', shl_eq, h127, h128]
    exact ⟨mul_le_mul_of_nonneg_right hlo hpow.le, mul_lt_mul_of_pos_right hhi hpow⟩

/-- The squared and rescaled remainder of a round (R120). -/
theorem square_bounds {r : Int} (hlo : 2 ^ 127 ≤ r) (hhi : r < 2 ^ 128) :
    2 ^ 127 ≤ shr (r * r) 127 ∧ shr (r * r) 127 < 2 ^ 129 := by
  have hpow : (0 : Int) < 2 ^ 127 := by positivity
  rw [shr_eq, Int.le_ediv_iff_mul_le hpow, Int.ediv_lt_iff_lt_mul hpow]
  constructor <;> nlinarith

/-- The bit a round extracts, and the remainder it leaves normalised (R121, R122). -/
theorem extracted_bit_cases {q : Int} (hlo : 2 ^ 127 ≤ q) (hhi : q < 2 ^ 129) :
    (shr q 128 = 0 ∨ shr q 128 = 1) ∧ 2 ^ 127 ≤ shr q (shr q 128).toNat ∧ shr q (shr q 128).toNat < 2 ^ 128 := by
  have hbit : shr q 128 = 0 ∧ q < 2 ^ 128 ∨ shr q 128 = 1 ∧ 2 ^ 128 ≤ q := by rw [shr_eq]; omega
  obtain ⟨hf, hq⟩ | ⟨hf, hq⟩ := hbit
  · rw [hf]
    exact ⟨.inl rfl, by simpa [shr_eq] using ⟨hlo, hq⟩⟩
  · rw [hf]
    exact ⟨.inr rfl, by rw [Int.toNat_one, shr_eq]; omega⟩

/-- After `k` rounds from the integer part `n`: the remainder is normalised, and the estimate is a number `c` of `k`
fraction bits below `n + 1`, kept with 64 fraction bits (R120, R121). -/
def LogScanned (n : Int) (k : Nat) (st : LogScan) : Prop :=
  2 ^ 127 ≤ st.r ∧ st.r < 2 ^ 128 ∧
    ∃ c : Int, st.lg = c * 2 ^ (64 - k) ∧ n * 2 ^ k ≤ c ∧ c < (n + 1) * 2 ^ k

theorem logScanned_logSeed {v : Int} {m : Nat} (hlo : 2 ^ m ≤ v) (hhi : v < 2 ^ (m + 1)) :
    LogScanned (m - 128) 0 (logSeed v m) := by
  obtain ⟨hr, hr'⟩ := normalise_bounds hlo hhi
  exact ⟨hr, hr', m - 128, shl_eq _ _, by simp, by simp⟩

/-- Writing bit `i` of an estimate whose low `i + 1` bits are zero is an addition (R121). -/
theorem lor_shl_bit {c f : Int} (i : Nat) (hf : f = 0 ∨ f = 1) :
    lor (c * 2 ^ (i + 1)) (shl f i) = (2 * c + f) * 2 ^ i := by
  obtain rfl | rfl := hf
  · rw [shl_eq, zero_mul, lor_zero]; ring
  · have hzero : bitAt (c * 2 ^ (i + 1)) i = 0 := by
      rw [bitAt_eq, pow_succ', ← mul_assoc, Int.mul_ediv_cancel _ (by positivity)]
      exact Int.mul_emod_left c 2
    rw [shl_eq, one_mul, lor_two_pow hzero]; ring

/-- A round extracts one more fraction bit. -/
theorem logScanned_logRound {n : Int} {k : Nat} {st : LogScan} (hk : k < 64) (h : LogScanned n k st) :
    LogScanned n (k + 1) (logRound st k) := by
  obtain ⟨hlo, hhi, c, hlg, hclo, hchi⟩ := h
  obtain ⟨hq, hq'⟩ := square_bounds hlo hhi
  obtain ⟨hf, hr, hr'⟩ := extracted_bit_cases hq hq'
  have hbits : 64 - k = 63 - k + 1 := by omega
  refine ⟨hr, hr', 2 * c + shr (shr (st.r * st.r) 127) 128, ?_, ?_, ?_⟩
  · have hlast : 64 - (k + 1) = 63 - k := by omega
    rw [hlast, ← lor_shl_bit _ hf, ← hbits, ← hlg]
    rfl
  · rw [pow_succ', mul_left_comm]; omega
  · rw [pow_succ', mul_left_comm]; omega

/-- The 14 rounds follow one another. -/
theorem logScanned_foldl {n : Int} {st : LogScan} (h : LogScanned n 0 st) (k : Nat) (hk : k ≤ 64) :
    LogScanned n k ((List.range k).foldl logRound st) := by
  induction k with
  | zero => exact h
  | succ k ih =>
    rw [List.range_succ, List.foldl_append]
    exact logScanned_logRound hk (ih (by omega))

/-- The logarithm estimate has the integer part `m - 128` and 14 fraction bits (R119, R121). -/
theorem logEstimate_bounds {v : Int} {m : Nat} (hlo : 2 ^ m ≤ v) (hhi : v < 2 ^ (m + 1)) :
    ∃ c : Int, logEstimate v m = c * 2 ^ 50 ∧ (m - 128) * 2 ^ 14 ≤ c ∧ c < (m - 127) * 2 ^ 14 := by
  obtain ⟨-, -, c, hlg, hclo, hchi⟩ := logScanned_foldl (logScanned_logSeed hlo hhi) 14 (by decide)
  exact ⟨c, hlg, hclo, by linarith⟩

/-- For the exponents that a rescaled price can have, the upper candidate is a valid tick (R127). The 14 fraction bits
end short of the next power of two by more than the margin of `C_HIGH`. -/
theorem tickHigh_bounds {v : Int} {m : Nat} (hlo : 2 ^ m ≤ v) (hhi : v < 2 ^ (m + 1)) (hm : 64 ≤ m) (hm' : m ≤ 191) :
    -887272 ≤ tickHigh (logValue v m) ∧ tickHigh (logValue v m) ≤ 887272 := by
  obtain ⟨c, hc, hclo, hchi⟩ := logEstimate_bounds hlo hhi
  unfold tickHigh logValue
  rw [hc, shr_eq, cHigh_eq, logMult_eq]
  omega

end Sys2Proof.Machine
end

section
/-! The errors each operation can raise (10_state.md R25, 42_sqrtprice_to_tick.md R127). -/

namespace Sys2Proof.Machine

theorem mostSignificantBit_error {x : Int} {e : Error} (h : mostSignificantBit x = .err e) :
    e ∈ [Error.zero, .tooLarge] := by
  unfold mostSignificantBit at h
  split_ifs at h <;> cases h <;> decide

theorem sqrtPriceAtTick_error {tick : Int} {e : Error} (h : sqrtPriceAtTick tick = .err e) :
    e ∈ [Error.tickOutOfRange] := by
  unfold sqrtPriceAtTick at h
  split_ifs at h
  cases h
  decide

theorem maxLiquidityPerTick_error {r : Config.Rounding} {spacing : Int} {e : Error}
    (h : maxLiquidityPerTick r spacing = .err e) : e ∈ [Error.spacingNotPositive] := by
  unfold maxLiquidityPerTick at h
  split_ifs at h
  cases h
  decide

theorem addLiquidityDelta_error {x y : Int} {e : Error} (h : addLiquidityDelta x y = .err e) :
    e ∈ [Error.overflow, .underflow, .negativeLiquidity] := by
  unfold addLiquidityDelta at h
  split_ifs at h <;> cases h <;> decide

/-- Every tick of the range has a price (R101). -/
theorem sqrtPriceAtTick_eq_ok {tick : Int} (hlo : -887272 ≤ tick) (hhi : tick ≤ 887272) :
    ∃ p, sqrtPriceAtTick tick = .ok p :=
  ⟨_, if_neg (by rw [minTick_eq, maxTick_eq]; omega)⟩

/-- The tie-break succeeds where the upper candidate has a price (R125). -/
theorem tieBreak_eq_ok {price low high : Int} (hlo : -887272 ≤ high) (hhi : high ≤ 887272) :
    ∃ t, tieBreak price low high = .ok t := by
  obtain ⟨p, hp⟩ := sqrtPriceAtTick_eq_ok hlo hhi
  unfold tieBreak
  split_ifs
  · exact ⟨low, rfl⟩
  · by_cases hle : p ≤ price <;> simp [callThen, hp, hle]

/-- For an in-domain price the top bit of the rescaled value lies in `[64, 191]` (R118). -/
theorem rescaled_top_bit {price : Int} (hlo : 4295128739 ≤ price)
    (hhi : price < 1461446703485210103287273052203988822378723970342) :
    ∃ m : Nat, mostSignificantBit (price * q32) = .ok m ∧ 2 ^ m ≤ price * q32 ∧ price * q32 < 2 ^ (m + 1) ∧
      64 ≤ m ∧ m ≤ 191 := by
  rw [q32_eq]
  obtain ⟨m, hm, hmlo, hmhi⟩ := mostSignificantBit_eq_ok (x := price * 4294967296) (by omega) (by omega)
  refine ⟨m, hm, hmlo, hmhi, ?_, ?_⟩
  · have hlt : (2 : Int) ^ 64 < 2 ^ (m + 1) := by omega
    exact Nat.lt_succ_iff.1 ((pow_lt_pow_iff_right₀ one_lt_two).1 hlt)
  · have hlt : (2 : Int) ^ m < 2 ^ 192 := by omega
    exact Nat.lt_succ_iff.1 ((pow_lt_pow_iff_right₀ one_lt_two).1 hlt)

/-- An in-domain price meets no inner error (R127). -/
theorem tickAtSqrtPrice_eq_ok {price : Int} (hlo : 4295128739 ≤ price)
    (hhi : price < 1461446703485210103287273052203988822378723970342) : ∃ t, tickAtSqrtPrice price = .ok t := by
  obtain ⟨m, hm, hmlo, hmhi, hge, hle⟩ := rescaled_top_bit hlo hhi
  obtain ⟨hhlo, hhhi⟩ := tickHigh_bounds hmlo hmhi hge hle
  unfold tickAtSqrtPrice
  rw [if_neg (by rw [minSqrtRatio_eq, maxSqrtRatio_eq]; omega), hm]
  exact tieBreak_eq_ok hhlo hhhi

theorem tickAtSqrtPrice_error {price : Int} {e : Error} (h : tickAtSqrtPrice price = .err e) :
    e ∈ [Error.sqrtPriceOutOfRange] := by
  by_cases hdom : price < minSqrtRatio ∨ price ≥ maxSqrtRatio
  · unfold tickAtSqrtPrice at h
    rw [if_pos hdom] at h
    cases h
    decide
  · rw [minSqrtRatio_eq, maxSqrtRatio_eq, not_or, not_lt, not_le] at hdom
    obtain ⟨t, ht⟩ := tickAtSqrtPrice_eq_ok hdom.1 hdom.2
    rw [ht] at h
    cases h

end Sys2Proof.Machine
end

section
/-! The status a command leaves (10_state.md R24, R25). -/

namespace Sys2Proof.Machine

/-- The statuses each operation can leave, read off its errors (R25, R161). -/
def possibleStatuses : Instr → List StatusWord
  | .msb _ _ => [statusOk, statusOf .zero, statusOf .tooLarge]
  | .spt _ _ => [statusOk, statusOf .tickOutOfRange]
  | .tsp _ _ => [statusOk, statusOf .sqrtPriceOutOfRange]
  | .mlt _ _ => [statusOk, statusOf .spacingNotPositive]
  | .ald _ _ => [statusOk, statusOf .overflow, statusOf .underflow, statusOf .negativeLiquidity]
  | .reserved0 _ _ | .reserved6 _ _ | .reserved7 _ _ => [statusOf .illegalOp]

/-- An outcome with only the errors `es` has the status of a success or of one of them. -/
theorem resultStatus_mem {r : Result} {es : List Error} (h : ∀ e, r = .err e → e ∈ es) :
    resultStatus r ∈ statusOk :: es.map statusOf := by
  cases r with
  | ok v => exact List.mem_cons_self
  | err e => exact List.mem_cons_of_mem _ (List.mem_map_of_mem (h e rfl))

theorem resultStatus_mem_possibleStatuses (i : Instr) : resultStatus (execResult i) ∈ possibleStatuses i := by
  cases i with
  | msb a b => exact resultStatus_mem fun _ => mostSignificantBit_error
  | spt a b => exact resultStatus_mem fun _ => sqrtPriceAtTick_error
  | tsp a b => exact resultStatus_mem fun _ => tickAtSqrtPrice_error
  | mlt a b => exact resultStatus_mem fun _ => maxLiquidityPerTick_error
  | ald a b => exact resultStatus_mem fun _ => addLiquidityDelta_error
  | reserved0 a b | reserved6 a b | reserved7 a b => exact List.mem_cons_self

/-- Settles O39: the code and the flags of each possible status are a finite check. -/
theorem flagsAreSetByTheirOperations : Obligations.FlagsAreSetByTheirOperations := by
  intro i s
  refine ⟨_, exec_eq_finish i s, ?_⟩
  rw [finish_status]
  have hst := resultStatus_mem_possibleStatuses i
  generalize resultStatus (execResult i) = st at hst ⊢
  revert st
  cases i <;> dsimp only [possibleStatuses] <;> decide

/-- A presentable command for each legal status. -/
def statusWitnesses : List Instr :=
  [.ald 0 0, .msb 0 0, .msb (2 ^ 256) 0, .spt 887273 0, .tsp 0 0, .ald (2 ^ 128) 0, .ald 0 (-1), .reserved0 0 0,
   .mlt 0 0, .ald (-1) 0]

/-- The witnesses leave the ten legal statuses, in the order of the list (R24). -/
theorem statusWitnesses_statuses :
    statusWitnesses.map (fun i => resultStatus (execResult i)) = legalStatuses := by decide +kernel

theorem statusWitnesses_wellFormed : ∀ i ∈ statusWitnesses, WellFormed i := by decide +kernel

/-- Settles O38: the outcome of every command has a legal status, and each legal status has its witness. -/
theorem statusTakesExactlyTenValues : Obligations.StatusTakesExactlyTenValues := by
  refine ⟨fun i s => ⟨_, exec_eq_finish i s, ?_⟩, fun st hst => ?_⟩
  · rw [finish_status]
    have hst := resultStatus_mem_legal (execResult i)
    refine ⟨hst, ?_⟩
    generalize resultStatus (execResult i) = st at hst ⊢
    revert st
    decide
  · rw [← statusWitnesses_statuses] at hst
    obtain ⟨i, hi, rfl⟩ := List.mem_map.1 hst
    exact ⟨i, statusWitnesses_wellFormed i hi, fun s => ⟨_, exec_eq_finish i s, finish_status s _⟩⟩

end Sys2Proof.Machine
end

section
/-! The response to a command and what else a machine holds (20_memory.md R52, 70_reset_and_hazards.md R204, R209). -/

namespace Sys2Proof.Machine

/-- On a success `RES` is the result's word, whatever the machine held before (R26). -/
theorem finish_res_eq_of_success {r : Result} (h : statusCode (resultStatus r) = 0) (s s' : State) :
    (s.finish r).res = (s'.finish r).res := by
  obtain ⟨v, hv⟩ := (statusCode_resultStatus_eq_zero r).1 h
  rw [finish_res_of_ok hv, finish_res_of_ok hv]

/-- Settles O43: both machines finish with the outcome of the one command they hold. -/
theorem responseDependsOnTheCommandAlone : Obligations.ResponseDependsOnTheCommandAlone := by
  rintro s s' ⟨hs, hp, hw, hr⟩ ⟨hs', hp', hw', hr'⟩ hcmd
  have hstep' := step_of_exec hs' hp' hr' hw'
  rw [← hcmd] at hstep'
  refine ⟨_, _, step_of_exec hs hp hr hw, hstep', by simp, fun hok => ?_⟩
  rw [State.advance_status, finish_status] at hok
  exact finish_res_eq_of_success hok s s'

end Sys2Proof.Machine
end

section
/-! The contents of the read-only tables (20_memory.md R43, R45, R46), and the prices the ladder yields at the end
ticks. -/

namespace Sys2Proof.Machine

/-- Settles O8, entry by entry: the powers that the table prints are those of its exponents. -/
theorem powerTableIsDescendingPowersOfTwo : Obligations.PowerTableIsDescendingPowersOfTwo := by
  unfold Obligations.PowerTableIsDescendingPowersOfTwo
  decide +kernel

/-- Settles O9, by comparing the exact powers at each of the 20 entries. -/
theorem ladderEntriesEncodeTheirPowers : Obligations.LadderEntriesEncodeTheirPowers := by
  unfold Obligations.LadderEntriesEncodeTheirPowers
  decide +kernel

/-- A command whose outcome is a success completes with it (R26). -/
theorem completesOk_of_execResult {i : Instr} {v : Int} (h : execResult i = .ok v) (s : State) :
    CompletesOk i s v := by
  have hexec := exec_eq_finish i s
  rwa [h] at hexec

/-- `SPT` completes with the price of its tick, whatever its second operand (R64). -/
theorem spt_completesOk {tick p : Int} (h : sqrtPriceAtTick tick = .ok p) (b : Int) (s : State) :
    CompletesOk (.spt tick b) s p :=
  completesOk_of_execResult (i := .spt tick b) h s

theorem sqrtPriceAtTick_minTick : sqrtPriceAtTick minTick = .ok minSqrtRatio := by decide +kernel

theorem sqrtPriceAtTick_maxTick : sqrtPriceAtTick maxTick = .ok maxSqrtRatio := by decide +kernel

theorem sqrtPriceAtTick_zero : sqrtPriceAtTick 0 = .ok (2 ^ 96) := by decide +kernel

/-- Settles O16: the three prices are computed, and a command completes with its outcome. -/
theorem sptMeetsTheQuotedPrices : Obligations.SptMeetsTheQuotedPrices := fun b s =>
  ⟨spt_completesOk sqrtPriceAtTick_minTick b s, spt_completesOk sqrtPriceAtTick_maxTick b s,
    by simp, by simp, by simp, spt_completesOk sqrtPriceAtTick_zero b s⟩

end Sys2Proof.Machine
end

section
/-! Decoding as an inverse (30_encoding.md R60 to R66): the fields of a decoded command, and its word. -/

namespace Sys2Proof

@[simp] theorem commandOf_opA (op : Opcode) (a b : Int) : (commandOf op a b).opA = a := by
  unfold commandOf; split <;> rfl

@[simp] theorem commandOf_opB (op : Opcode) (a b : Int) : (commandOf op a b).opB = b := by
  unfold commandOf; split <;> rfl

/-- The opcode map is one to one (R61). -/
@[simp] theorem opcode_commandOf (op : Opcode) (a b : Int) : (commandOf op a b).opcode = op := by
  obtain ⟨code⟩ := op
  fin_cases code <;> rfl

@[simp] theorem opcode_decode (w : CmdWord) : (decode w).opcode = w.op := opcode_commandOf _ _ _
@[simp] theorem decode_opA (w : CmdWord) : (decode w).opA = asInt w.a := commandOf_opA _ _ _
@[simp] theorem decode_opB (w : CmdWord) : (decode w).opB = asInt w.b := commandOf_opB _ _ _

/-- Every word of a port is an operand that the port can carry (R62). -/
theorem presentable_asInt (w : Word) : Presentable (asInt w) := ⟨BitVec.le_toInt w, BitVec.toInt_lt⟩

theorem wellFormed_decode (w : CmdWord) : WellFormed (decode w) := by
  rw [WellFormed, decode_opA, decode_opB]
  exact ⟨presentable_asInt w.a, presentable_asInt w.b⟩

/-- Encoding packs the three fields that decoding took apart (R60). -/
theorem encode_decode (w : CmdWord) : encode (decode w) = w := by
  rw [encode, opcode_decode, decode_opA, decode_opB, enc_asInt, enc_asInt, packCmd_fields]

/-- Settles O1. -/
theorem decodeInvertsEncode : Obligations.DecodeInvertsEncode := fun _ => decode_encode

/-- Settles O2. -/
theorem encodeInvertsDecode : Obligations.EncodeInvertsDecode := fun w => ⟨wellFormed_decode w, encode_decode w⟩

/-- Settles O3, by decoding each printed word. -/
theorem printedWordsDecode : Obligations.PrintedWordsDecode := by
  unfold Obligations.PrintedWordsDecode
  decide +kernel

end Sys2Proof
end

section
/-! The packed response (30_encoding.md R69): its two fields, and the word on the response ports. -/

namespace Sys2Proof

@[simp] theorem packRsp_value (value : Word) (status : StatusWord) :
    (packRsp value status).extractLsb' 0 258 = value :=
  BitVec.extractLsb'_append_eq_right

@[simp] theorem packRsp_status (value : Word) (status : StatusWord) :
    (packRsp value status).extractLsb' 258 8 = status :=
  BitVec.extractLsb'_append_eq_left

/-- A response word is the packing of its two fields: no bit of it belongs to none (R69). -/
theorem packRsp_fields (w : RspWord) : packRsp (w.extractLsb' 0 258) (w.extractLsb' 258 8) = w := by
  unfold packRsp
  rw [BitVec.extractLsb'_append_extractLsb'_eq_extractLsb' (start₂ := 258) (start₁ := 0) rfl]
  exact BitVec.extractLsb'_eq_self

/-- Settles O57. -/
theorem packedResponseHoldsValueAndStatus : Obligations.PackedResponseHoldsValueAndStatus := by
  refine ⟨fun value status => ⟨packRsp_value value status, packRsp_status value status⟩, packRsp_fields,
    fun s => ⟨packRsp_value _ _, packRsp_status _ _, fun hs => ?_⟩⟩
  rw [Machine.State.rspWord, packRsp_value, packRsp_status]
  exact ⟨Machine.rspValue_of_showsResponse hs, Machine.rspStatus_of_showsResponse hs⟩

end Sys2Proof
end

section
/-! Operand fields that an operation does not use, and the reserved opcodes (30_encoding.md R64, R67). -/

namespace Sys2Proof.Machine

/-- Only `ALD` reads its second operand (R64). -/
theorem execResult_commandOf_of_ne_ald {i : Instr} (h : i.opcode ≠ 5) (b : Int) :
    execResult (commandOf i.opcode i.opA b) = execResult i := by
  cases i with
  | ald a b' => exact absurd rfl h
  | msb a b' | spt a b' | tsp a b' | mlt a b' => rfl
  | reserved0 a b' | reserved6 a b' | reserved7 a b' => rfl

/-- A reserved opcode ends in `IllegalOp`, whatever its operands (R67). -/
theorem execResult_of_reserved {i : Instr} (h : i.opcode = 0 ∨ i.opcode = 6 ∨ i.opcode = 7) :
    execResult i = .err .illegalOp := by
  cases i with
  | reserved0 a b | reserved6 a b | reserved7 a b => rfl
  | msb a b | spt a b | tsp a b | mlt a b | ald a b => simp [Instr.opcode] at h

/-- Away from `ALD`, the opcode and the first operand fix the outcome (R64). -/
theorem execResult_congr {i i' : Instr} (hop : i.opcode = i'.opcode) (ha : i.opA = i'.opA) (hne : i.opcode ≠ 5) :
    execResult i = execResult i' := by
  rw [← execResult_commandOf_of_ne_ald hne i'.opB, hop, ha, commandOf_opcode]

/-- Settles O41: the two commands have one outcome. -/
theorem unusedOperandFieldsAreIgnored : Obligations.UnusedOperandFieldsAreIgnored := by
  intro w w' s hop hne hused
  have hresult : execResult (decode w) = execResult (decode w') := by
    obtain ha | hreserved := hused
    · exact execResult_congr (by simp [hop]) (by simp [ha]) (by simpa using hne)
    · rw [execResult_of_reserved (i := decode w) (by simpa using hreserved),
        execResult_of_reserved (i := decode w') (by simpa [← hop] using hreserved)]
  rw [exec_eq_finish, exec_eq_finish, hresult]

/-- A command whose outcome is an error completes with its status (R26, R167). -/
theorem completesErr_of_execResult {i : Instr} {e : Error} (h : execResult i = .err e) (s : State) :
    CompletesErr i s (statusOf e) := by
  have hexec := exec_eq_finish i s
  rwa [h] at hexec

/-- Settles O36: the outcome of a reserved opcode, and the equation of the ACCEPT step. -/
theorem reservedOpcodesCompleteWithIllegalOp : Obligations.ReservedOpcodesCompleteWithIllegalOp := by
  refine ⟨fun a b s => ?_, fun s w hidle _ hpresents => ?_⟩
  · have hstatus : statusOf .illegalOp = 0x87 := by decide
    rw [← hstatus]
    exact ⟨completesErr_of_execResult (i := .reserved0 a b) rfl s,
      completesErr_of_execResult (i := .reserved6 a b) rfl s, completesErr_of_execResult (i := .reserved7 a b) rfl s⟩
  · obtain ⟨hs, hp⟩ := hidle
    obtain ⟨hr, hv, hop, ha, hb⟩ := hpresents
    exact ⟨_, step_of_accept hs hp hr hv, rfl, by simp [hop, ha, hb]⟩

/-- Settles O50: of the steps only DELIVER adds a response, and the invariant says that it answers. -/
theorem eachDeliveryAnswersTheHeldCommand : Obligations.EachDeliveryAnswersTheHeldCommand := by
  intro s t hs hagree hstep
  obtain ⟨u, hu, rfl⟩ := step_cases hstep
  cases hu with
  | deliver _ _ hp _ => exact .inr ⟨⟨s.res, s.status⟩, rfl, (hagree hs).2 hp, rfl⟩
  | exec _ _ _ _ => exact .inl (finish_responses s _)
  | reset _ | accept _ _ _ _ | wait _ _ _ _ | none _ _ _ _ _ => exact .inl rfl

end Sys2Proof.Machine
end

section
/-! The ladder of `SPT` (41_tick_to_sqrtprice.md R102 to R105): the ratio is least at the greatest magnitude. From the
top bit down, a smaller magnitude agrees with 887272 as far as a bit that only 887272 has set. With that bit, 887272 has a
ratio no greater than any magnitude without it, even one with all lower bits set; and the same steps follow for both. -/

namespace Sys2Proof.Machine

theorem romLadder_bounds (k : Fin 20) : 0 < romLadder k ∧ romLadder k ≤ 2 ^ 128 := by
  revert k; decide +kernel

theorem ladderStep_of_set {n : Int} {k : Fin 20} (h : bitAt n k = 1) (ratio : Int) :
    ladderStep n ratio k = ratio * romLadder k / 2 ^ 128 := by rw [ladderStep, if_pos h, shr_eq]

theorem ladderStep_of_clear {n : Int} {k : Fin 20} (h : bitAt n k = 0) (ratio : Int) : ladderStep n ratio k = ratio := by
  rw [ladderStep, if_neg (by rw [h]; decide)]

theorem ladderStep_nonneg (n : Int) {ratio : Int} (h : 0 ≤ ratio) (k : Fin 20) : 0 ≤ ladderStep n ratio k := by
  obtain hbit | hbit := bitAt_zero_or_one n k
  · rwa [ladderStep_of_clear hbit]
  · rw [ladderStep_of_set hbit]
    exact Int.ediv_nonneg (mul_nonneg h (romLadder_bounds k).1.le) (by positivity)

theorem ladderStep_le (n : Int) {ratio : Int} (h : 0 ≤ ratio) (k : Fin 20) : ladderStep n ratio k ≤ ratio := by
  obtain hbit | hbit := bitAt_zero_or_one n k
  · rw [ladderStep_of_clear hbit]
  · rw [ladderStep_of_set hbit]
    exact Int.ediv_le_of_le_mul (by positivity) (mul_le_mul_of_nonneg_left (romLadder_bounds k).2 h)

theorem ladderStep_mono (n : Int) {ratio ratio' : Int} (h : ratio ≤ ratio') (k : Fin 20) :
    ladderStep n ratio k ≤ ladderStep n ratio' k := by
  obtain hbit | hbit := bitAt_zero_or_one n k
  · rwa [ladderStep_of_clear hbit, ladderStep_of_clear hbit]
  · rw [ladderStep_of_set hbit, ladderStep_of_set hbit]
    exact Int.ediv_le_ediv (by positivity) (mul_le_mul_of_nonneg_right h (romLadder_bounds k).1.le)

/-- The ratio after the ladder's first `k` bits, the seed taken as the step of bit 0 (R104). -/
def ladderUpTo (n : Int) (k : Nat) : Int := ((List.finRange 20).take k).foldl (ladderStep n) seedEven

theorem ladderUpTo_succ (n : Int) (k : Fin 20) :
    ladderUpTo n (k + 1) = ladderStep n (ladderUpTo n k) k := by
  unfold ladderUpTo
  rw [List.take_succ_eq_append_getElem (by simp), List.foldl_append]
  simp

theorem ladderStep_seedEven (n : Int) : ladderStep n seedEven 0 = ladderSeed n := by
  have hfirst : seedEven * romLadder 0 / 2 ^ 128 = romLadder 0 := by decide +kernel
  rw [ladderStep, ladderSeed, shr_eq, hfirst]
  rfl

/-- The whole ladder, with bit 0 as its first step (R102, R104). -/
theorem ladderUpTo_eq_ladderRatio (n : Int) : ladderUpTo n 20 = ladderRatio n := by
  rw [ladderRatio, ← ladderStep_seedEven]
  rfl

theorem ladderUpTo_bounds (n : Int) {k : Nat} (hk : k ≤ 20) : 0 ≤ ladderUpTo n k ∧ ladderUpTo n k ≤ 2 ^ 128 := by
  induction k with
  | zero =>
    have hseed : 0 ≤ seedEven ∧ seedEven ≤ 2 ^ 128 := by decide +kernel
    exact hseed
  | succ k ih =>
    obtain ⟨hlo, hhi⟩ := ih (by omega)
    rw [ladderUpTo_succ n ⟨k, hk⟩]
    exact ⟨ladderStep_nonneg n hlo _, (ladderStep_le n hlo _).trans hhi⟩

/-- No magnitude has a smaller ratio than the one with every bit set. -/
theorem ladderUpTo_allOnes_le (n : Int) {k : Nat} (hk : k ≤ 20) : ladderUpTo (2 ^ 20 - 1) k ≤ ladderUpTo n k := by
  induction k with
  | zero => rfl
  | succ k ih =>
    have hset : ∀ j : Fin 20, bitAt (2 ^ 20 - 1) j = 1 := by decide
    have hle := ih (by omega)
    rw [ladderUpTo_succ _ ⟨k, hk⟩, ladderUpTo_succ _ ⟨k, hk⟩]
    obtain hbit | hbit := bitAt_zero_or_one n (⟨k, hk⟩ : Fin 20)
    · rw [ladderStep_of_clear hbit]
      exact (ladderStep_le _ (ladderUpTo_bounds _ (by omega)).1 _).trans hle
    · rw [ladderStep_of_set (hset _), ← ladderStep_of_set hbit]
      exact ladderStep_mono n hle _

/-- Dropping a set bit of 887272 and setting all below it does not make the ratio smaller. -/
theorem ladderUpTo_maxTick_le_allOnes :
    ∀ k : Fin 20, bitAt 887272 k = 1 → ladderUpTo 887272 (k + 1) ≤ ladderUpTo (2 ^ 20 - 1) k := by decide +kernel

theorem emod_two_pow_succ (n : Int) (k : Nat) : n % 2 ^ (k + 1) = n % 2 ^ k + 2 ^ k * bitAt n k := by
  have hpow : (0 : Int) ≤ 2 ^ k := by positivity
  rw [bitAt_eq, Int.emod_def, Int.emod_def, Int.emod_def, pow_succ, ← Int.ediv_ediv_of_nonneg hpow]
  ring

/-- The ratio after `k` bits is least at 887272 among the magnitudes whose low `k` bits are no greater. -/
theorem ladderUpTo_maxTick_le {n : Int} {k : Nat} (hk : k ≤ 20) (h : n % 2 ^ k ≤ 887272 % 2 ^ k) :
    ladderUpTo 887272 k ≤ ladderUpTo n k := by
  induction k with
  | zero => rfl
  | succ k ih =>
    rw [emod_two_pow_succ, emod_two_pow_succ] at h
    rw [ladderUpTo_succ n ⟨k, hk⟩]
    have hpow : (0 : Int) < 2 ^ k := by positivity
    have hlow := Int.emod_nonneg n hpow.ne'
    have hlow' := Int.emod_lt_of_pos 887272 hpow
    obtain hbit | hbit := bitAt_zero_or_one n k <;> obtain hmax | hmax := bitAt_zero_or_one 887272 k
    · rw [ladderUpTo_succ _ ⟨k, hk⟩, ladderStep_of_clear (k := ⟨k, hk⟩) hmax, ladderStep_of_clear hbit]
      exact ih (by omega) (by simpa [hbit, hmax] using h)
    · rw [ladderStep_of_clear hbit]
      exact (ladderUpTo_maxTick_le_allOnes ⟨k, hk⟩ hmax).trans (ladderUpTo_allOnes_le n (by omega))
    · rw [hbit, hmax] at h
      omega
    · rw [ladderUpTo_succ _ ⟨k, hk⟩, ladderStep_of_set hmax, ← ladderStep_of_set hbit]
      exact ladderStep_mono n (ih (by omega) (by simpa [hbit, hmax] using h)) _

/-- The ratio of every magnitude of the tick range, before the inversion (R105, R30). -/
theorem ladderRatio_bounds {n : Int} (hlo : 0 ≤ n) (hhi : n ≤ 887272) :
    18447437462383981825 ≤ ladderRatio n ∧ ladderRatio n ≤ 2 ^ 128 := by
  have hlast : ladderUpTo 887272 20 = 18447437462383981825 := by decide +kernel
  rw [← ladderUpTo_eq_ladderRatio, ← hlast]
  exact ⟨ladderUpTo_maxTick_le le_rfl (by omega), (ladderUpTo_bounds n le_rfl).2⟩

end Sys2Proof.Machine
end

section
/-! The range of each operation's results (30_encoding.md R70). -/

namespace Sys2Proof.Machine

theorem mostSignificantBit_range {x v : Int} (h : mostSignificantBit x = .ok v) : 0 ≤ v ∧ v ≤ 255 := by
  by_cases hdom : 1 ≤ x ∧ x < 2 ^ 256
  · obtain ⟨m, hm, hle, -⟩ := mostSignificantBit_eq_ok hdom.1 hdom.2
    obtain rfl : (m : Int) = v := by simpa [hm] using h
    have hlt : m < 256 := (pow_lt_pow_iff_right₀ one_lt_two).1 (hle.trans_lt hdom.2)
    omega
  · unfold mostSignificantBit at h
    rw [maxUint256_eq] at h
    split_ifs at h
    omega

/-- What a price is, where there is one (R101). -/
theorem sqrtPriceAtTick_ok {tick p : Int} (h : sqrtPriceAtTick tick = .ok p) :
    -887272 ≤ tick ∧ tick ≤ 887272 ∧ p = cdiv (invertIfPositive tick (ladderRatio (magnitude tick))) q32 := by
  unfold sqrtPriceAtTick at h
  split_ifs at h with hdom
  rw [minTick_eq, maxTick_eq, not_or, not_lt, not_lt] at hdom
  exact ⟨hdom.1, hdom.2, (Result.ok.inj h).symm⟩

/-- A floor quotient is at most `q` exactly when `q + 1` divisors exceed the dividend (R11). -/
theorem fdiv_le_iff {b : Int} (hb : 0 < b) (q a : Int) : fdiv a b ≤ q ↔ a < (q + 1) * b := by
  rw [← Int.lt_add_one_iff, fdiv_lt_iff hb]

/-- The inversion maps the ladder's ratios to those from `2^128 - 1` up (R105). -/
theorem fdiv_maxUint256_bounds {ratio : Int} (hlo : 18447437462383981825 ≤ ratio) (hhi : ratio ≤ 2 ^ 128) :
    2 ^ 128 - 1 ≤ fdiv maxUint256 ratio ∧
      fdiv maxUint256 ratio ≤ 1461446703485210103287273052203988822378723970342 * 4294967296 := by
  have hpos : 0 < ratio := by omega
  rw [maxUint256_eq, le_fdiv_iff hpos, fdiv_le_iff hpos]
  omega

theorem sqrtPriceAtTick_range {tick p : Int} (h : sqrtPriceAtTick tick = .ok p) :
    4295128739 ≤ p ∧ p ≤ 1461446703485210103287273052203988822378723970342 := by
  obtain ⟨hlo, hhi, rfl⟩ := sqrtPriceAtTick_ok h
  obtain ⟨hrlo, hrhi⟩ := ladderRatio_bounds (n := magnitude tick) (by unfold magnitude; omega)
    (by unfold magnitude; omega)
  have hq32 : (0 : Int) < 4294967296 := by decide
  rw [q32_eq, ← Int.sub_one_lt_iff, ← not_le, cdiv_le_iff hq32, cdiv_le_iff hq32, invertIfPositive]
  split
  · obtain ⟨hilo, hihi⟩ := fdiv_maxUint256_bounds hrlo hrhi
    omega
  · omega

/-- The two candidates are equal or neighbours (R124). -/
theorem tickHigh_eq_tickLow_or_succ (lv : Int) : tickHigh lv = tickLow lv ∨ tickHigh lv = tickLow lv + 1 := by
  unfold tickLow tickHigh
  rw [shr_eq, shr_eq, cLow_eq, cHigh_eq]
  omega

/-- The lower candidate stays below `MAX_TICK`, as the fraction bits end short of the next power of two. -/
theorem tickLow_le {v : Int} {m : Nat} (hlo : 2 ^ m ≤ v) (hhi : v < 2 ^ (m + 1)) (hm : m ≤ 191) :
    tickLow (logValue v m) ≤ 887271 := by
  obtain ⟨c, hc, -, hchi⟩ := logEstimate_bounds hlo hhi
  unfold tickLow logValue
  rw [hc, shr_eq, cLow_eq, logMult_eq]
  omega

/-- What the tie-break can choose, and the price that decides (R125). -/
theorem tieBreak_ok {price low high t : Int} (h : tieBreak price low high = .ok t) :
    (low = high ∧ t = low) ∨
      ∃ p, low ≠ high ∧ sqrtPriceAtTick high = .ok p ∧ ((p ≤ price ∧ t = high) ∨ (price < p ∧ t = low)) := by
  unfold tieBreak at h
  split at h
  · next heq => exact .inl ⟨heq, (Result.ok.inj h).symm⟩
  · next hne =>
    cases hp : sqrtPriceAtTick high with
    | err e => simp [hp, callThen] at h
    | ok p =>
      refine .inr ⟨p, hne, rfl, ?_⟩
      simp only [hp, callThen] at h
      split at h
      · next hle => exact .inl ⟨hle, (Result.ok.inj h).symm⟩
      · next hgt => exact .inr ⟨not_le.1 hgt, (Result.ok.inj h).symm⟩

/-- Where a tick is answered, it is the tie-break's between two candidates of an in-domain price (R116, R118). -/
theorem tickAtSqrtPrice_ok {price t : Int} (h : tickAtSqrtPrice price = .ok t) :
    4295128739 ≤ price ∧ price < 1461446703485210103287273052203988822378723970342 ∧
      ∃ m : Nat, 2 ^ m ≤ price * q32 ∧ price * q32 < 2 ^ (m + 1) ∧ 64 ≤ m ∧ m ≤ 191 ∧
        tieBreak price (tickLow (logValue (price * q32) m)) (tickHigh (logValue (price * q32) m)) = .ok t := by
  unfold tickAtSqrtPrice at h
  split_ifs at h with hdom
  rw [minSqrtRatio_eq, maxSqrtRatio_eq, not_or, not_lt, ge_iff_le, not_le] at hdom
  obtain ⟨hlo, hhi⟩ := hdom
  obtain ⟨m, hm, hmlo, hmhi, hge, hle⟩ := rescaled_top_bit hlo hhi
  rw [hm] at h
  exact ⟨hlo, hhi, m, hmlo, hmhi, hge, hle, h⟩

theorem tick_ne_of_price_ne {tick tick' p p' : Int} (hp : sqrtPriceAtTick tick = .ok p)
    (hp' : sqrtPriceAtTick tick' = .ok p') (hne : p ≠ p') : tick ≠ tick' := by
  rintro rfl
  exact hne (Result.ok.inj (hp.symm.trans hp'))

/-- `MAX_TICK` is never answered, since its price is no operand of `TSP`, nor a tick below `MIN_TICK`, since every
operand reaches the price of `MIN_TICK` (R127, R128). -/
theorem tickAtSqrtPrice_range {price t : Int} (h : tickAtSqrtPrice price = .ok t) : -887272 ≤ t ∧ t ≤ 887271 := by
  obtain ⟨hlo, hhi, m, hmlo, hmhi, hge, hle, htie⟩ := tickAtSqrtPrice_ok h
  obtain ⟨hhlo, hhhi⟩ := tickHigh_bounds hmlo hmhi hge hle
  have hlow := tickLow_le hmlo hmhi hle
  have hnext := tickHigh_eq_tickLow_or_succ (logValue (price * q32) m)
  obtain ⟨heq, rfl⟩ | ⟨p, hne, hp, ⟨hple, rfl⟩ | ⟨hpgt, rfl⟩⟩ := tieBreak_ok htie
  · omega
  · have hmax := tick_ne_of_price_ne hp sqrtPriceAtTick_maxTick (by rw [maxSqrtRatio_eq]; omega)
    rw [maxTick_eq] at hmax
    omega
  · have hmin := tick_ne_of_price_ne hp sqrtPriceAtTick_minTick (by rw [minSqrtRatio_eq]; omega)
    rw [minTick_eq] at hmin
    omega

/-- The count of usable ticks, with the quotient toward zero of decision D12 (R136, R138). -/
theorem numTicks_eq {spacing : Int} (h : 1 ≤ spacing) :
    numTicks minTickRounding spacing = 2 * fdiv 887272 spacing + 1 := by
  have hmax : maxUsable spacing = fdiv 887272 spacing * spacing := by
    rw [maxUsable, maxTick_eq, tdiv_eq_fdiv (by decide)]
  have hmin : minUsable minTickRounding spacing = -(fdiv 887272 spacing * spacing) := by
    rw [minUsable, minTickRounding, divRounded, minTick_eq, tdiv_eq_cdiv (by decide), cdiv, neg_mul]
    rfl
  have hwidth : fdiv 887272 spacing * spacing - -(fdiv 887272 spacing * spacing) =
      2 * fdiv 887272 spacing * spacing := by ring
  rw [numTicks, hmax, hmin, hwidth, fdiv_eq (2 * _ * _), Int.mul_ediv_cancel _ (by omega)]

theorem maxLiquidityPerTick_range {spacing v : Int} (h : maxLiquidityPerTick minTickRounding spacing = .ok v) :
    191757530477355301479181766273477 ≤ v ∧ v ≤ 2 ^ 128 - 1 := by
  unfold maxLiquidityPerTick at h
  split_ifs at h with hpos
  have hspacing : 0 < spacing := by omega
  have hq : 0 ≤ fdiv 887272 spacing := (le_fdiv_iff hspacing _ _).2 (by omega)
  have hq' : fdiv 887272 spacing < 887273 := (fdiv_lt_iff hspacing _ _).2 (by omega)
  have hticks : 0 < 2 * fdiv 887272 spacing + 1 := by omega
  rw [← Result.ok.inj h, numTicks_eq (by omega), maxUint128_eq, le_fdiv_iff hticks, fdiv_le_iff hticks]
  omega

theorem addLiquidityDelta_range {x y v : Int} (h : addLiquidityDelta x y = .ok v) : 0 ≤ v ∧ v ≤ 2 ^ 128 - 1 := by
  unfold addLiquidityDelta magnitude at h
  rw [maxUint128_eq] at h
  split_ifs at h <;> have hv := Result.ok.inj h <;> omega

/-- Every result fits the port (R70): none comes near `2^257`. -/
theorem presentable_of_execResult {i : Instr} {v : Int} (h : execResult i = .ok v) : Presentable v := by
  unfold Presentable
  rw [two_pow_257]
  cases i with
  | msb a b => have hrange := mostSignificantBit_range h; omega
  | spt a b => have hrange := sqrtPriceAtTick_range h; omega
  | tsp a b => have hrange := tickAtSqrtPrice_range h; omega
  | mlt a b => have hrange := maxLiquidityPerTick_range h; omega
  | ald a b => have hrange := addLiquidityDelta_range h; omega
  | reserved0 a b | reserved6 a b | reserved7 a b => cases h

/-- A wider port carries what the 258-bit port carries (R6). -/
theorem asInt_enc_of_presentable_of_le {v : Int} (h : Presentable v) {n : Nat} (hn : 258 ≤ n) :
    asInt (enc n v) = v := by
  obtain ⟨n, rfl⟩ : ∃ k, n = k + 1 := ⟨n - 1, by omega⟩
  have hpow : (2 : Int) ^ 257 ≤ 2 ^ n := pow_le_pow_right₀ one_le_two (by omega)
  exact asInt_enc ((neg_le_neg hpow).trans h.1) (h.2.trans_le hpow)

/-- Settles O42: the range of each operation, and what follows from any of them for the ports. -/
theorem everyResultLiesInItsRange : Obligations.EveryResultLiesInItsRange := by
  intro i v h
  refine ⟨?_, fun n => asInt_enc_of_presentable_of_le (presentable_of_execResult h), completesOk_of_execResult h⟩
  cases i with
  | msb a b => exact mostSignificantBit_range h
  | spt a b => exact sqrtPriceAtTick_range h
  | tsp a b => exact tickAtSqrtPrice_range h
  | mlt a b => exact maxLiquidityPerTick_range h
  | ald a b => exact addLiquidityDelta_range h
  | reserved0 a b | reserved6 a b | reserved7 a b => cases h

end Sys2Proof.Machine
end

section
/-! What `MSB` answers (40_msb_finder.md R91, R92): the index of the highest set bit, or the error of the side of the
domain that its operand misses. -/

namespace Sys2Proof.Machine

theorem highest_set_bit_unique {x : Int} {m m' : Nat} (hlo : 2 ^ m ≤ x) (hhi : x < 2 ^ (m + 1)) (hlo' : 2 ^ m' ≤ x)
    (hhi' : x < 2 ^ (m' + 1)) : m' = m := by
  have hle : m' < m + 1 := (pow_lt_pow_iff_right₀ one_lt_two).1 (hlo'.trans_lt hhi)
  have hge : m < m' + 1 := (pow_lt_pow_iff_right₀ one_lt_two).1 (hlo.trans_lt hhi')
  omega

/-- The highest set bit is all that is left after a shift by its index. -/
theorem bitAt_highest {x : Int} {m : Nat} (hlo : 2 ^ m ≤ x) (hhi : x < 2 ^ (m + 1)) : bitAt x m = 1 := by
  have hpow : (0 : Int) < 2 ^ m := by positivity
  have hge : 1 ≤ x / 2 ^ m := (Int.le_ediv_iff_mul_le hpow).2 (by simpa using hlo)
  have hlt : x / 2 ^ m < 2 := (Int.ediv_lt_iff_lt_mul hpow).2 (by rwa [← pow_succ'])
  rw [bitAt_eq]
  omega

theorem bitAt_eq_zero_of_lt {x : Int} {i : Nat} (hpos : 0 ≤ x) (hlt : x < 2 ^ i) : bitAt x i = 0 := by
  rw [bitAt_eq, Int.ediv_eq_zero_of_lt hpos hlt, Int.zero_emod]

/-- Settles O10: the scan keeps "`x` shifted right by the count so far" down to one remaining bit, and the bounds it ends
with determine the index and the bits. -/
theorem msbIsTheHighestSetBit : Obligations.MsbIsTheHighestSetBit := by
  intro x b s hpos hmax
  have hhi : x < 2 ^ 256 := by omega
  obtain ⟨m, hm, hle, hlt⟩ := mostSignificantBit_eq_ok hpos hhi
  refine ⟨m, hle, hlt, fun m' => highest_set_bit_unique hle hlt, bitAt_highest hle hlt, fun i hi => ?_,
    (msbScan_spec hpos hhi).1, completesOk_of_execResult (i := .msb x b) hm s⟩
  have hpow : (2 : Int) ^ (m + 1) ≤ 2 ^ i := pow_le_pow_right₀ one_le_two hi
  exact bitAt_eq_zero_of_lt (by omega) (hlt.trans_le hpow)

theorem mostSignificantBit_of_nonpos {x : Int} (h : x ≤ 0) : mostSignificantBit x = .err .zero := if_pos h

theorem mostSignificantBit_of_too_large {x : Int} (h : 2 ^ 256 ≤ x) : mostSignificantBit x = .err .tooLarge := by
  unfold mostSignificantBit
  rw [if_neg (by omega), if_pos (by rw [maxUint256_eq]; omega)]

/-- Settles O11: the operand decides the error, and a command completes with its outcome. -/
theorem msbRejectsOutsideItsDomain : Obligations.MsbRejectsOutsideItsDomain := by
  intro x b s
  have hzero : statusOf .zero = 0x11 := by decide
  have htooLarge : statusOf .tooLarge = 0x12 := by decide
  rw [← hzero, ← htooLarge]
  exact ⟨fun h => completesErr_of_execResult (i := .msb x b) (mostSignificantBit_of_nonpos h) s,
    fun h => completesErr_of_execResult (i := .msb x b) (mostSignificantBit_of_too_large h) s⟩

end Sys2Proof.Machine
end

section
/-! The accuracy of the ladder of `SPT` (41_tick_to_sqrtprice.md R101 to R104), against the real price ratio of one tick.
An entry of the table is within 1 of its real value, and a ladder step adds that error and the truncation to the error
it finds: 20 steps stay within 40. -/

namespace Sys2Proof.Machine

/-- The real square-root price of a tick over that of the next one, `1 / sqrt(1.0001)` (R46). -/
noncomputable def tickFactor : ℝ := √(10000 / 10001)

/-- What the ladder approximates: the real square-root price ratio of the magnitude `n`, in units of `2^-128`. -/
noncomputable def realRatio (n : Int) : ℝ := 2 ^ 128 * tickFactor ^ n

theorem tickFactor_sq : tickFactor ^ 2 = 10000 / 10001 := Real.sq_sqrt (by norm_num)

theorem tickFactor_pos : 0 < tickFactor := Real.sqrt_pos.2 (by norm_num)

theorem tickFactor_le : tickFactor ≤ 30000 / 30001 := Real.sqrt_le_iff.2 (by norm_num)

theorem tickFactor_le_one : tickFactor ≤ 1 := tickFactor_le.trans (by norm_num)

@[simp] theorem realRatio_zero : realRatio 0 = 2 ^ 128 := by simp [realRatio]

theorem realRatio_pos (n : Int) : 0 < realRatio n := mul_pos (by positivity) (zpow_pos tickFactor_pos n)

theorem realRatio_antitone {n n' : Int} (h : n ≤ n') : realRatio n' ≤ realRatio n :=
  mul_le_mul_of_nonneg_left (zpow_le_zpow_right_of_le_one₀ tickFactor_pos tickFactor_le_one h) (by positivity)

theorem realRatio_succ (n : Int) : realRatio (n + 1) = realRatio n * tickFactor := by
  rw [realRatio, realRatio, zpow_add_one₀ tickFactor_pos.ne', mul_assoc]

/-- Magnitudes add where ratios multiply. -/
theorem realRatio_add (m n : Int) : realRatio (m + n) = realRatio m * realRatio n / 2 ^ 128 := by
  rw [realRatio, realRatio, realRatio, zpow_add₀ tickFactor_pos.ne']
  field_simp

theorem realRatio_two_pow_sq (k : Nat) :
    realRatio (2 ^ k) ^ 2 * 10001 ^ 2 ^ k = 2 ^ 256 * 10000 ^ 2 ^ k := by
  have hexp : tickFactor ^ (2 ^ k : Int) = tickFactor ^ 2 ^ k := by exact_mod_cast zpow_natCast tickFactor (2 ^ k)
  rw [realRatio, hexp, mul_pow, pow_right_comm tickFactor, tickFactor_sq, div_pow, ← pow_mul, mul_assoc,
    div_mul_cancel₀ _ (by positivity)]

/-- A table entry is within 1 of the real ratio of its magnitude (R46): the bounds on squares, read in the reals. -/
theorem abs_romLadder_sub_realRatio (k : Fin 20) : |(romLadder k : ℝ) - realRatio (2 ^ k.val)| ≤ 1 := by
  obtain ⟨hlo, hhi⟩ := ladderEntriesEncodeTheirPowers k
  obtain ⟨m, hm⟩ : ∃ m : Nat, romLadder k = m + 1 := ⟨(romLadder k).toNat - 1, by have := romLadder_bounds k; omega⟩
  have hnat : (romLadder k).toNat = m + 1 := by omega
  rw [hnat, Nat.add_sub_cancel] at hlo
  rw [hnat] at hhi
  have hpow : (0 : ℝ) < 10001 ^ 2 ^ k.val := by positivity
  have hreal := (realRatio_pos (2 ^ k.val)).le
  have hle : (m : ℝ) ^ 2 ≤ realRatio (2 ^ k.val) ^ 2 := by
    refine le_of_mul_le_mul_right ?_ hpow
    rw [realRatio_two_pow_sq]
    exact_mod_cast hlo
  have hge : realRatio (2 ^ k.val) ^ 2 ≤ ((m : ℝ) + 1 + 1) ^ 2 := by
    refine le_of_mul_le_mul_right ?_ hpow
    rw [realRatio_two_pow_sq]
    exact_mod_cast hhi
  rw [pow_le_pow_iff_left₀ (by positivity) (by positivity) two_ne_zero] at hle hge
  rw [hm, abs_le]
  push_cast
  constructor <;> linarith

/-- Dropping the low 128 bits takes less than a unit away (R103). -/
theorem abs_ediv_sub_div_le_one (a : Int) : |((a / 2 ^ 128 : Int) : ℝ) - a / 2 ^ 128| ≤ 1 := by
  have h := Int.floor_div_natCast (a : ℝ) (2 ^ 128)
  rw [Int.floor_intCast, Nat.cast_pow, Nat.cast_pow] at h
  have hfloor : a / 2 ^ 128 = ⌊(a : ℝ) / 2 ^ 128⌋ := h.symm
  rw [hfloor, abs_sub_comm, Int.self_sub_floor, abs_of_nonneg (Int.fract_nonneg _)]
  exact (Int.fract_lt_one _).le

/-- Multiplying by an entry `l` for the ratio `w` adds the error of the entry to the error of the ratio (R103). -/
theorem abs_mul_div_sub_le {ratio l u w err : ℝ} (hu : 0 ≤ u) (hu' : u ≤ 2 ^ 128) (hl : 0 ≤ l) (hl' : l ≤ 2 ^ 128)
    (herr : |ratio - u| ≤ err) (hw : |l - w| ≤ 1) : |ratio * l / 2 ^ 128 - u * w / 2 ^ 128| ≤ err + 1 := by
  have hl1 : |l / 2 ^ 128| ≤ 1 := by rwa [abs_of_nonneg (by positivity), div_le_one (by positivity)]
  have hu1 : |u / 2 ^ 128| ≤ 1 := by rwa [abs_of_nonneg (by positivity), div_le_one (by positivity)]
  calc |ratio * l / 2 ^ 128 - u * w / 2 ^ 128|
    _ = |(ratio - u) * (l / 2 ^ 128) + u / 2 ^ 128 * (l - w)| := by ring_nf
    _ ≤ |(ratio - u) * (l / 2 ^ 128)| + |u / 2 ^ 128 * (l - w)| := abs_add_le _ _
    _ ≤ err * 1 + 1 * 1 := by
      rw [abs_mul, abs_mul]
      gcongr
      exact (abs_nonneg _).trans herr
    _ = err + 1 := by ring

/-- A ladder step whose bit is set: the error grows by 1 for the entry and by 1 for the truncation (R103). -/
theorem abs_ladderStep_sub_le {n : Int} {k : Fin 20} (hbit : bitAt n k = 1) {ratio m : Int} {err : ℝ} (hm : 0 ≤ m)
    (herr : |(ratio : ℝ) - realRatio m| ≤ err) :
    |(ladderStep n ratio k : ℝ) - realRatio (m + 2 ^ k.val)| ≤ err + 2 := by
  obtain ⟨hlo, hhi⟩ := romLadder_bounds k
  have hmax : realRatio m ≤ 2 ^ 128 := realRatio_zero ▸ realRatio_antitone hm
  have hmul := abs_mul_div_sub_le (realRatio_pos m).le hmax (by exact_mod_cast hlo.le) (by exact_mod_cast hhi) herr
    (abs_romLadder_sub_realRatio k)
  have hdrop := abs_ediv_sub_div_le_one (ratio * romLadder k)
  rw [Int.cast_mul] at hdrop
  rw [ladderStep_of_set hbit, realRatio_add]
  linarith [abs_sub_le ((ratio * romLadder k / 2 ^ 128 : Int) : ℝ) (ratio * romLadder k / 2 ^ 128)
    (realRatio m * realRatio (2 ^ k.val) / 2 ^ 128)]

/-- After `k` bits the ratio is within `2 * k` of the real ratio of those bits (R102, R103). -/
theorem abs_ladderUpTo_sub_realRatio (n : Int) {k : Nat} (hk : k ≤ 20) :
    |(ladderUpTo n k : ℝ) - realRatio (n % 2 ^ k)| ≤ 2 * k := by
  induction k with
  | zero =>
    have hseed : ladderUpTo n 0 = 2 ^ 128 := rfl
    rw [hseed, pow_zero, Int.emod_one, realRatio_zero]
    norm_num
  | succ k ih =>
    have herr := ih (by omega)
    rw [ladderUpTo_succ n ⟨k, hk⟩, emod_two_pow_succ]
    push_cast
    obtain hbit | hbit := bitAt_zero_or_one n (⟨k, hk⟩ : Fin 20)
    · rw [ladderStep_of_clear hbit, hbit, mul_zero, add_zero]
      linarith
    · rw [hbit, mul_one, mul_add_one]
      exact abs_ladderStep_sub_le hbit (Int.emod_nonneg n (by positivity)) herr

/-- The ratio of the ladder is within 40 of the real ratio. -/
theorem abs_ladderRatio_sub_realRatio {n : Int} (hlo : 0 ≤ n) (hhi : n < 2 ^ 20) :
    |(ladderRatio n : ℝ) - realRatio n| ≤ 40 := by
  have h := abs_ladderUpTo_sub_realRatio n (k := 20) le_rfl
  rw [ladderUpTo_eq_ladderRatio, Int.emod_eq_of_lt hlo hhi] at h
  norm_num at h
  exact h

/-- The ratio falls from one magnitude to any greater one by a 40000th at least: the real ratio falls by a 30001st, and
the smallest ratio leaves room for the error of the ladder. -/
theorem ladderRatio_falls {n n' : Int} (hlo : 0 ≤ n) (hlt : n < n') (hhi : n' ≤ 887272) :
    40000 * ladderRatio n' ≤ 39999 * ladderRatio n := by
  have herr := abs_le.1 (abs_ladderRatio_sub_realRatio hlo (by omega))
  have herr' := abs_le.1 (abs_ladderRatio_sub_realRatio (n := n') (by omega) (by omega))
  have hmin : (18447437462383981825 : ℝ) ≤ ladderRatio n := by exact_mod_cast (ladderRatio_bounds hlo (by omega)).1
  have hfall : realRatio n' ≤ realRatio n * (30000 / 30001) := calc
    realRatio n' ≤ realRatio (n + 1) := realRatio_antitone hlt
    _ = realRatio n * tickFactor := realRatio_succ n
    _ ≤ realRatio n * (30000 / 30001) := mul_le_mul_of_nonneg_left tickFactor_le (realRatio_pos n).le
  have hreal : (40000 * ladderRatio n' : ℝ) ≤ 39999 * ladderRatio n := by linarith
  exact_mod_cast hreal

end Sys2Proof.Machine
end

section
/-! What `SPT` answers (41_tick_to_sqrtprice.md R101 to R108): the rescaled ratio, its growth from tick to tick, and the
error outside the tick range. -/

namespace Sys2Proof.Machine

/-- The price of a tick of the range (R101, R106). -/
theorem sqrtPriceAtTick_of_mem_range {tick : Int} (hlo : -887272 ≤ tick) (hhi : tick ≤ 887272) :
    sqrtPriceAtTick tick = .ok (cdiv (invertIfPositive tick (ladderRatio (magnitude tick))) q32) := by
  obtain ⟨p, hp⟩ := sqrtPriceAtTick_eq_ok hlo hhi
  obtain ⟨-, -, rfl⟩ := sqrtPriceAtTick_ok hp
  exact hp

/-- A ceiling quotient is the floor quotient, and one more when there is a remainder (R11, R106). -/
theorem cdiv_eq_fdiv_add_ite {b : Int} (hb : 0 < b) (a : Int) :
    cdiv a b = fdiv a b + if fmod a b ≠ 0 then 1 else 0 := by
  refine eq_of_forall_ge_iff fun q => ?_
  rw [cdiv_le_iff hb]
  split_ifs with hrem
  · rw [Int.add_one_le_iff, fdiv_lt_iff hb]
    have hne : a ≠ q * b := by
      rintro rfl
      exact hrem (by rw [fmod_eq, Int.mul_emod_left])
    exact hne.le_iff_lt
  · have hexact := fdiv_mul_add_fmod a b
    rw [not_not.1 hrem, add_zero] at hexact
    calc a ≤ q * b
      _ ↔ fdiv a b * b ≤ q * b := by rw [hexact]
      _ ↔ fdiv a b + 0 ≤ q := by rw [mul_le_mul_iff_of_pos_right hb, add_zero]

/-- Settles O12: the price of the tick, its ceiling written as a floor and a remainder. -/
theorem sptRescalesRoundingUp : Obligations.SptRescalesRoundingUp := by
  intro tick b s hlo hhi ratio
  have hceil := cdiv_eq_fdiv_add_ite (b := 2 ^ 32) (by decide) ratio
  have hfloor : shr ratio 32 = fdiv ratio (2 ^ 32) := shr_eq ratio 32
  rw [hfloor, ← hceil]
  exact ⟨spt_completesOk (sqrtPriceAtTick_of_mem_range hlo hhi) b s, rfl⟩

/-- Settles O13: the bounds of the ladder, and its value at the greatest magnitude. -/
theorem ladderRatioStaysInBounds : Obligations.LadderRatioStaysInBounds := by
  have hlast : ladderRatio 887272 = 18447437462383981825 := by decide +kernel
  exact ⟨fun n hlo hhi => ladderRatio_bounds hlo hhi, hlast, by decide⟩

/-- An even number and the odd one after it differ in bit 0 alone. -/
theorem bitAt_succ_of_even {n : Int} (h : bitAt n 0 = 0) :
    bitAt (n + 1) 0 = 1 ∧ ∀ i : Nat, bitAt (n + 1) (i + 1) = bitAt n (i + 1) := by
  cases n using Int.bitCasesOn with
  | h c a =>
    have hc : c = false := by simpa [bitAt_bit_zero] using h
    have hodd : Int.bit false a + 1 = Int.bit true a := by simp [Int.bit_val]
    rw [hc, hodd]
    exact ⟨bitAt_bit_zero true a, fun i => by rw [bitAt_bit_succ, bitAt_bit_succ]⟩

/-- Every ladder step reads a bit above bit 0 (R104). -/
theorem exists_succ_of_mem_ladderOrder {k : Fin 20} (h : k ∈ ladderOrder) : ∃ i : Nat, k.val = i + 1 := by
  have hpos : ∀ j ∈ ladderOrder, 0 < j.val := by decide
  exact Nat.exists_eq_succ_of_ne_zero (hpos k h).ne'

/-- Settles O14: the two magnitudes differ in bit 0, which only the seed reads. -/
theorem bitZeroOnlyChoosesTheSeed : Obligations.BitZeroOnlyChoosesTheSeed := by
  intro n h
  obtain ⟨hodd, hsame⟩ := bitAt_succ_of_even h
  have hseed : ladderSeed (n + 1) = romLadder 0 := by rw [ladderSeed, if_pos hodd]
  have hstep : ∀ (ratio : Int) (k : Fin 20), k ∈ ladderOrder → ladderStep (n + 1) ratio k = ladderStep n ratio k := by
    intro ratio k hk
    obtain ⟨i, hi⟩ := exists_succ_of_mem_ladderOrder hk
    rw [ladderStep, ladderStep, hi, hsame]
  refine ⟨?_, hseed, hstep, ?_, by decide +kernel⟩
  · rw [ladderSeed, if_neg (by rw [h]; decide)]
    rfl
  · rw [ladderRatio, hseed]
    exact List.foldl_ext _ _ _ fun ratio k hk => hstep ratio k hk

theorem sqrtPriceAtTick_of_out_of_range {tick : Int} (h : tick < -887272 ∨ 887272 < tick) :
    sqrtPriceAtTick tick = .err .tickOutOfRange := if_pos (by rw [minTick_eq, maxTick_eq]; exact h)

/-- Settles O15: the check of the range comes first, and a command completes with its outcome. -/
theorem sptRejectsOutsideItsDomain : Obligations.SptRejectsOutsideItsDomain := by
  intro tick b s h
  have hstatus : statusOf .tickOutOfRange = 0x13 := by decide
  rw [← hstatus]
  exact completesErr_of_execResult (i := .spt tick b) (sqrtPriceAtTick_of_out_of_range h) s

/-- A dividend greater by a whole divisor has the greater ceiling quotient (R11). -/
theorem cdiv_lt_cdiv {a a' b : Int} (hb : 0 < b) (h : a + b ≤ a') : cdiv a b < cdiv a' b := by
  have hlast : (cdiv a b - 1) * b < a := not_le.1 (mt (cdiv_le_iff hb _ a).2 (by omega))
  rw [← not_le, cdiv_le_iff hb, not_le]
  linarith

/-- Inversion turns a fall of the ratio by a 40000th into a growth of at least `2^32`, one unit of the price (R105). -/
theorem fdiv_maxUint256_grows {ratio ratio' : Int} (hpos : 0 < ratio') (hfall : 40000 * ratio' ≤ 39999 * ratio)
    (hmax : ratio ≤ 2 ^ 128) : fdiv maxUint256 ratio + q32 ≤ fdiv maxUint256 ratio' := by
  have hfloor := (le_fdiv_iff (b := ratio) (by omega) _ maxUint256).1 le_rfl
  have hnonneg : 0 ≤ fdiv maxUint256 ratio := (le_fdiv_iff (by omega) _ _).2 (by rw [maxUint256_eq]; omega)
  rw [le_fdiv_iff hpos, q32_eq]
  have hscaled : (fdiv maxUint256 ratio + 4294967296) * (40000 * ratio') ≤
      (fdiv maxUint256 ratio + 4294967296) * (39999 * ratio) := mul_le_mul_of_nonneg_left hfall (by omega)
  linarith [maxUint256_eq]

theorem invertIfPositive_of_pos {tick : Int} (h : 0 < tick) (ratio : Int) :
    invertIfPositive tick ratio = fdiv maxUint256 ratio := if_pos h

theorem invertIfPositive_of_nonpos {tick : Int} (h : tick ≤ 0) (ratio : Int) : invertIfPositive tick ratio = ratio :=
  if_neg (not_lt.2 h)

/-- The ratio after the inversion grows from one tick to any greater one by at least `2^32`: with a falling magnitude up
to tick 0, with a falling ratio from there on. Across tick 0, the ratio is at most `2^128` before and above it after
(R105). -/
theorem invertedRatio_grows {t t' : Int} (hlo : -887272 ≤ t) (hlt : t < t') (hhi : t' ≤ 887272) :
    invertIfPositive t (ladderRatio (magnitude t)) + q32 ≤ invertIfPositive t' (ladderRatio (magnitude t')) := by
  rw [magnitude_eq, magnitude_eq]
  obtain hneg' | hpos' := le_or_gt t' 0
  · rw [invertIfPositive_of_nonpos (hlt.le.trans hneg'), invertIfPositive_of_nonpos hneg',
      abs_of_nonpos (hlt.le.trans hneg'), abs_of_nonpos hneg', q32_eq]
    have hfall := ladderRatio_falls (n := -t') (n' := -t) (by omega) (by omega) (by omega)
    have hmin := (ladderRatio_bounds (n := -t) (by omega) (by omega)).1
    omega
  · rw [invertIfPositive_of_pos hpos', abs_of_pos hpos']
    have hmin' := (ladderRatio_bounds (n := t') (by omega) (by omega)).1
    obtain hneg | hpos := le_or_gt t 0
    · rw [invertIfPositive_of_nonpos hneg, abs_of_nonpos hneg, le_fdiv_iff (by omega), q32_eq, maxUint256_eq]
      have hmax := (ladderRatio_bounds (n := -t) (by omega) (by omega)).2
      have hmax0 := (ladderRatio_bounds (n := 0) le_rfl (by decide)).2
      have hfall := ladderRatio_falls le_rfl hpos' hhi
      calc (ladderRatio (-t) + 4294967296) * ladderRatio t'
        _ ≤ (2 ^ 128 + 4294967296) * ladderRatio t' := by gcongr
        _ ≤ 115792089237316195423570985008687907853269984665640564039457584007913129639935 := by omega
    · rw [invertIfPositive_of_pos hpos, abs_of_pos hpos]
      exact fdiv_maxUint256_grows (by omega) (ladderRatio_falls hpos.le hlt hhi)
        (ladderRatio_bounds hpos.le (by omega)).2

/-- Settles O17: the rescaled ratio grows by whole units of the price, and the two ends are computed. -/
theorem sptIsStrictlyIncreasing : Obligations.SptIsStrictlyIncreasing := by
  refine ⟨fun t t' p p' hlt hp hp' => ?_, fun t => sqrtPriceAtTick_eq_ok, sqrtPriceAtTick_minTick,
    sqrtPriceAtTick_maxTick, sqrtPriceAtTick_of_out_of_range (.inl (by decide)),
    sqrtPriceAtTick_of_out_of_range (.inr (by decide))⟩
  obtain ⟨hlo, -, rfl⟩ := sqrtPriceAtTick_ok hp
  obtain ⟨-, hhi, rfl⟩ := sqrtPriceAtTick_ok hp'
  exact cdiv_lt_cdiv (by decide) (invertedRatio_grows hlo hlt hhi)

/-- Settles O18: the price of the tick, and exact powers on both sides of its square. -/
theorem sptCanFallBelowTheRealPrice : Obligations.SptCanFallBelowTheRealPrice :=
  ⟨64330954013550134269998843803582592, by decide +kernel, by decide +kernel, by decide +kernel⟩

end Sys2Proof.Machine
end

section
/-! The logarithm of `TSP` round by round (42_sqrtprice_to_tick.md R118 to R124): the bounds and the bits of one round,
the estimate after any number of rounds, and the two candidates it yields. -/

namespace Sys2Proof.Machine

/-- An answer of `MSB` is the index of the highest set bit of an operand of its domain (R91, R92). -/
theorem mostSignificantBit_ok {x m : Int} (h : mostSignificantBit x = .ok m) :
    ∃ n : Nat, m = n ∧ 2 ^ n ≤ x ∧ x < 2 ^ (n + 1) := by
  have hlo : 1 ≤ x := by
    by_contra hneg
    rw [mostSignificantBit_of_nonpos (by omega)] at h
    cases h
  have hhi : x < 2 ^ 256 := by
    by_contra hlarge
    rw [mostSignificantBit_of_too_large (not_lt.1 hlarge)] at h
    cases h
  obtain ⟨n, hn, hbounds⟩ := mostSignificantBit_eq_ok hlo hhi
  exact ⟨n, Result.ok.inj (h.symm.trans hn), hbounds⟩

/-- The index of the highest set bit is the answer of `MSB`. -/
theorem mostSignificantBit_of_bounds {x : Int} {m : Nat} (hlo : 2 ^ m ≤ x) (hhi : x < 2 ^ (m + 1)) (hm : m < 256) :
    mostSignificantBit x = .ok m := by
  have hpos : (1 : Int) ≤ 2 ^ m := one_le_pow₀ one_le_two
  have hmax : (2 : Int) ^ (m + 1) ≤ 2 ^ 256 := pow_le_pow_right₀ one_le_two hm
  obtain ⟨n, hn, hnlo, hnhi⟩ := mostSignificantBit_eq_ok (hpos.trans hlo) (hhi.trans_le hmax)
  rw [hn, highest_set_bit_unique hlo hhi hnlo hnhi]

/-- Settles O20: the top bit of the rescaled price, and the same bounds divided by `2^32`. -/
theorem rescaledPriceHasItsTopBit : Obligations.RescaledPriceHasItsTopBit := by
  intro price hlo hhi
  obtain ⟨m, hm, hmlo, hmhi, hge, hle⟩ := rescaled_top_bit hlo hhi
  obtain ⟨n, rfl⟩ : ∃ n, m = n + 32 := ⟨m - 32, by omega⟩
  have hn : mostSignificantBit price = .ok n := by
    rw [q32_eq] at hmlo hmhi
    rw [pow_add] at hmlo
    rw [add_right_comm, pow_add] at hmhi
    exact mostSignificantBit_of_bounds (by omega) (by omega) (by omega)
  refine ⟨by rw [q32_eq]; omega, by rw [q32_eq]; omega, (n + 32 : Nat), hm, by omega, by omega, ?_⟩
  rw [hn]
  push_cast
  rw [add_sub_cancel_right]

/-- A multiple of `2^n` has its low `n` bits zero. -/
theorem bitAt_mul_two_pow_of_lt (a : Int) {i n : Nat} (h : i < n) : bitAt (a * 2 ^ n) i = 0 := by
  obtain ⟨k, rfl⟩ : ∃ k, n = i + 1 + k := ⟨n - (i + 1), by omega⟩
  have hsplit : a * 2 ^ (i + 1 + k) = a * 2 ^ k * 2 * 2 ^ i := by ring
  rw [bitAt_eq, hsplit, Int.mul_ediv_cancel _ (by positivity), Int.mul_emod_left]

theorem logSeed_r (v m : Int) : (logSeed v m).r = normalise v m := rfl

/-- The seed is the integer part, in units of `2^-64` (R119). -/
theorem logSeed_lg (v m : Int) : (logSeed v m).lg = (m - 128) * 2 ^ 64 := shl_eq _ _

/-- Settles O21: the bounds of the normalised value, and the seed as a multiple of `2^64`. -/
theorem normalisedValueHas128Bits : Obligations.NormalisedValueHas128Bits := by
  intro v m h
  obtain ⟨n, rfl, hlo, hhi⟩ := mostSignificantBit_ok h
  obtain ⟨hr, hr'⟩ := normalise_bounds hlo hhi
  refine ⟨hr, hr', logSeed_lg v n, fun i hi => ?_⟩
  rw [logSeed_lg]
  exact bitAt_mul_two_pow_of_lt _ hi

/-- The bit that a round extracts from the remainder `r` (R120). -/
def roundBit (r : Int) : Int := shr (shr (r * r) 127) 128

theorem logRound_r (st : LogScan) (i : Nat) :
    (logRound st i).r = shr (shr (st.r * st.r) 127) (roundBit st.r).toNat := rfl

theorem logRound_lg (st : LogScan) (i : Nat) : (logRound st i).lg = lor st.lg (shl (roundBit st.r) (63 - i)) := rfl

/-- The extracted bit is 1 exactly when the squared mantissa is at least 2 (R120). -/
theorem roundBit_eq_ite {r : Int} (hlo : 2 ^ 127 ≤ r) (hhi : r < 2 ^ 128) :
    roundBit r = if 2 ^ 255 ≤ r * r then 1 else 0 := by
  obtain ⟨hq, hq'⟩ := square_bounds hlo hhi
  have hiff : 2 ^ 128 ≤ shr (r * r) 127 ↔ 2 ^ 255 ≤ r * r := by rw [shr_eq]; omega
  rw [roundBit, shr_eq (shr _ _)]
  split_ifs with h
  · have := hiff.2 h; omega
  · have := mt hiff.1 h; omega

theorem roundBit_zero_or_one {r : Int} (hlo : 2 ^ 127 ≤ r) (hhi : r < 2 ^ 128) : roundBit r = 0 ∨ roundBit r = 1 := by
  obtain ⟨hq, hq'⟩ := square_bounds hlo hhi
  exact (extracted_bit_cases hq hq').1

/-- Settles O22: the square of a normalised remainder, and the one halving that its bit asks for. -/
theorem logRoundKeepsTheRemainderNormalised : Obligations.LogRoundKeepsTheRemainderNormalised := by
  intro st i hlo hhi
  obtain ⟨hq, hq'⟩ := square_bounds hlo hhi
  obtain ⟨-, hr, hr'⟩ := extracted_bit_cases hq hq'
  have hsq : 2 ^ 254 ≤ st.r * st.r := by nlinarith
  have hsq' : st.r * st.r < 2 ^ 256 := by nlinarith
  have hhalf : (logRound st i).r =
      if 2 ^ 255 ≤ st.r * st.r then fdiv (shr (st.r * st.r) 127) 2 else shr (st.r * st.r) 127 := by
    rw [logRound_r, roundBit_eq_ite hlo hhi, apply_ite Int.toNat, apply_ite (shr _)]
    simp [shr_eq, fdiv_eq]
  exact ⟨hsq, hsq', hq, hq', roundBit_eq_ite hlo hhi, hhalf, hr, hr'⟩

/-- The rounds of the logarithm up to `k` are the first `k` numbers (R120). -/
theorem logRounds_take {k : Nat} (hk : k ≤ 14) : logRounds.take k = List.range k := by
  have hrange : logRounds = List.range 14 := rfl
  rw [hrange, List.take_range, min_eq_left hk]

/-- The estimate holds its bits above bit `63 - k`, and its fraction lies below one unit of the integer part (R121). -/
theorem LogScanned.exists_fraction {n : Int} {k : Nat} {st : LogScan} (hk : k ≤ 64) (h : LogScanned n k st) :
    ∃ F : Int, st.lg = n * 2 ^ 64 + F ∧ 0 ≤ F ∧ F < 2 ^ 64 ∧ 2 ^ (64 - k) ∣ F := by
  obtain ⟨-, -, c, hlg, hclo, hchi⟩ := h
  have hpow : (2 : Int) ^ k * 2 ^ (64 - k) = 2 ^ 64 := by rw [← pow_add, Nat.add_sub_cancel' hk]
  have hpos : (0 : Int) < 2 ^ (64 - k) := by positivity
  refine ⟨(c - n * 2 ^ k) * 2 ^ (64 - k), ?_, mul_nonneg (by omega) hpos.le, ?_, Int.dvd_mul_left _ _⟩
  · rw [hlg, sub_mul, mul_assoc, hpow]; ring
  · rw [← hpow]
    exact mul_lt_mul_of_pos_right (by linarith) hpos

/-- The next bit to be written is zero beforehand (R121). -/
theorem LogScanned.bitAt_lg {n : Int} {k : Nat} {st : LogScan} (hk : k < 64) (h : LogScanned n k st) :
    bitAt st.lg (63 - k) = 0 := by
  obtain ⟨-, -, c, hlg, -, -⟩ := h
  rw [hlg]
  exact bitAt_mul_two_pow_of_lt c (by omega)

/-- The OR of a round is an addition (R121). -/
theorem LogScanned.lor_eq_add {n : Int} {k : Nat} {st : LogScan} (hk : k < 64) (h : LogScanned n k st) :
    lor st.lg (shl (roundBit st.r) (63 - k)) = st.lg + roundBit st.r * 2 ^ (63 - k) := by
  have hzero := h.bitAt_lg hk
  obtain ⟨hlo, hhi, -⟩ := h
  rw [shl_eq]
  obtain hf | hf := roundBit_zero_or_one hlo hhi
  · rw [hf, zero_mul, lor_zero, add_zero]
  · rw [hf, one_mul, lor_two_pow hzero]

/-- The written bit can be read back (R121). -/
theorem LogScanned.bitAt_logRound {n : Int} {k : Nat} {st : LogScan} (hk : k < 64) (h : LogScanned n k st) :
    bitAt (logRound st k).lg (63 - k) = roundBit st.r := by
  have hzero := h.bitAt_lg hk
  obtain ⟨hlo, hhi, -⟩ := h
  rw [logRound_lg, shl_eq]
  obtain hf | hf := roundBit_zero_or_one hlo hhi
  · rw [hf, zero_mul, lor_zero, hzero]
  · have hone : bitAt (2 ^ (63 - k)) (63 - k) = 1 := by
      rw [bitAt_eq, Int.ediv_self (by positivity)]
      rfl
    rw [hf, one_mul, bitAt_lor, if_pos (.inr hone)]

/-- Settles O23: what the scan keeps after `k` rounds says where its bits are. -/
theorem eachRoundAddsOneFractionBit : Obligations.EachRoundAddsOneFractionBit := by
  intro v m k h hk
  obtain ⟨n, rfl, hlo, hhi⟩ := mostSignificantBit_ok h
  rw [logRounds_take hk]
  have hscan := logScanned_foldl (logScanned_logSeed hlo hhi) k (by omega)
  refine ⟨hscan.exists_fraction (by omega), fun hlt => ?_⟩
  exact ⟨hscan.bitAt_lg (by omega), logRound_lg _ k, hscan.lor_eq_add (by omega), hscan.bitAt_logRound (by omega)⟩

/-- Settles O24: floor quotients by `2^128`, and constants that sum to less than `2^128`. -/
theorem candidatesAreFloorsAndDifferByAtMostOne : Obligations.CandidatesAreFloorsAndDifferByAtMostOne := by
  intro lv
  have hnext := tickHigh_eq_tickLow_or_succ lv
  refine ⟨?_, ?_, fun h => ?_, by omega⟩
  · rw [tickLow, shr_eq]; omega
  · rw [tickHigh, shr_eq]; omega
  · rw [tickLow, h]; decide +kernel

/-- `st` has the smaller estimate after `k` rounds, by a whole bit of the fraction, or the same estimate and at most the
remainder of `st'` (R126). -/
def LogBelow (k : Nat) (st st' : LogScan) : Prop :=
  st.lg + 2 ^ (64 - k) ≤ st'.lg ∨ st.lg = st'.lg ∧ st.r ≤ st'.r

theorem shr_mono {a b : Int} (h : a ≤ b) (n : Nat) : shr a n ≤ shr b n := by
  rw [shr_eq, shr_eq]
  exact Int.ediv_le_ediv (by positivity) h

/-- A round keeps the order: a greater remainder extracts the greater bit, or the same bit and a greater remainder. -/
theorem logBelow_logRound {n n' : Int} {k : Nat} {st st' : LogScan} (hk : k < 64) (hs : LogScanned n k st)
    (hs' : LogScanned n' k st') (h : LogBelow k st st') : LogBelow (k + 1) (logRound st k) (logRound st' k) := by
  have hlg := hs.lor_eq_add hk
  have hlg' := hs'.lor_eq_add hk
  obtain ⟨hlo, hhi, -⟩ := hs
  obtain ⟨hlo', hhi', -⟩ := hs'
  have hbit := roundBit_zero_or_one hlo hhi
  have hbit' := roundBit_zero_or_one hlo' hhi'
  have hlast : 64 - (k + 1) = 63 - k := by omega
  have hbits : 64 - k = 63 - k + 1 := by omega
  have hpos : (0 : Int) < 2 ^ (63 - k) := by positivity
  unfold LogBelow at *
  rw [logRound_lg, logRound_lg, hlg, hlg', hlast]
  rw [hbits, pow_succ] at h
  obtain hlt | ⟨heq, hr⟩ := h
  · left
    obtain hf | hf := hbit <;> obtain hf' | hf' := hbit' <;> rw [hf, hf'] <;> omega
  · have hq : shr (st.r * st.r) 127 ≤ shr (st'.r * st'.r) 127 := shr_mono (by nlinarith) 127
    have hf : roundBit st.r ≤ roundBit st'.r := shr_mono hq 128
    obtain hlt | hsame := hf.lt_or_eq
    · left
      have hf0 : roundBit st.r = 0 := by omega
      have hf1 : roundBit st'.r = 1 := by omega
      rw [hf0, hf1]
      omega
    · right
      rw [logRound_r, logRound_r, heq, hsame]
      exact ⟨rfl, shr_mono hq _⟩

theorem logBelow_foldl {n n' : Int} {st st' : LogScan} (hs : LogScanned n 0 st) (hs' : LogScanned n' 0 st')
    (h : LogBelow 0 st st') (k : Nat) (hk : k ≤ 64) :
    LogBelow k ((List.range k).foldl logRound st) ((List.range k).foldl logRound st') := by
  induction k with
  | zero => exact h
  | succ k ih =>
    simp only [List.range_succ, List.foldl_append]
    exact logBelow_logRound hk (logScanned_foldl hs k (by omega)) (logScanned_foldl hs' k (by omega)) (ih (by omega))

/-- A greater value has the greater top bit, or the same top bit and at least the normalised value (R119). -/
theorem logBelow_logSeed {v v' : Int} {m m' : Nat} (hlo : 2 ^ m ≤ v) (hhi' : v' < 2 ^ (m' + 1)) (h : v ≤ v') :
    LogBelow 0 (logSeed v m) (logSeed v' m') := by
  have hle : m < m' + 1 := (pow_lt_pow_iff_right₀ one_lt_two).1 ((hlo.trans h).trans_lt hhi')
  unfold LogBelow
  rw [logSeed_lg, logSeed_lg]
  obtain hlt | rfl := (Nat.lt_succ_iff.1 hle).lt_or_eq
  · left; omega
  · right
    refine ⟨rfl, ?_⟩
    rw [logSeed_r, logSeed_r]
    unfold normalise
    split_ifs
    · exact shr_mono h _
    · rw [shl_eq, shl_eq]
      exact mul_le_mul_of_nonneg_right h (by positivity)

/-- The estimate does not decrease with the value (R126). -/
theorem logEstimate_mono {v v' : Int} {m m' : Nat} (hlo : 2 ^ m ≤ v) (hhi : v < 2 ^ (m + 1)) (hlo' : 2 ^ m' ≤ v')
    (hhi' : v' < 2 ^ (m' + 1)) (h : v ≤ v') : logEstimate v m ≤ logEstimate v' m' := by
  obtain hlt | ⟨heq, -⟩ := logBelow_foldl (logScanned_logSeed hlo hhi) (logScanned_logSeed hlo' hhi')
    (logBelow_logSeed hlo hhi' h) 14 (by decide)
  · exact (le_add_of_nonneg_right (by positivity)).trans hlt
  · exact heq.le

/-- Settles O25: the estimate is monotone, and the candidates are monotone functions of it. -/
theorem logarithmIsMonotoneInThePrice : Obligations.LogarithmIsMonotoneInThePrice := by
  intro p p' m m' _ hle _ hm hm'
  obtain ⟨n, rfl, hlo, hhi⟩ := mostSignificantBit_ok hm
  obtain ⟨n', rfl, hlo', hhi'⟩ := mostSignificantBit_ok hm'
  have hlg : logEstimate (p * q32) n ≤ logEstimate (p' * q32) n' :=
    logEstimate_mono hlo hhi hlo' hhi' (mul_le_mul_of_nonneg_right hle (by decide))
  have hlv : logValue (p * q32) n ≤ logValue (p' * q32) n' := mul_le_mul_of_nonneg_right hlg (by decide)
  exact ⟨hlg, hlv, shr_mono (sub_le_sub_right hlv _) 128, shr_mono (add_le_add_left hlv _) 128⟩

end Sys2Proof.Machine
end

section
/-! What `TSP` answers (42_sqrtprice_to_tick.md R116, R125, R127): the error outside the domain, and the choice between
the two candidates inside it. -/

namespace Sys2Proof.Machine

/-- Settles O19: the check of the domain comes first, and a command completes with its outcome. -/
theorem tspRejectsOutsideItsDomain : Obligations.TspRejectsOutsideItsDomain := by
  intro price b s h
  have hstatus : statusOf .sqrtPriceOutOfRange = 0x14 := by decide
  have herr : tickAtSqrtPrice price = .err .sqrtPriceOutOfRange := if_pos h
  rw [← hstatus]
  exact completesErr_of_execResult (i := .tsp price b) herr s

/-- Inside the domain the answer is the tie-break's between the two candidates (R116, R118). -/
theorem tickAtSqrtPrice_eq_tieBreak {price m : Int} (hlo : 4295128739 ≤ price)
    (hhi : price < 1461446703485210103287273052203988822378723970342)
    (hm : mostSignificantBit (price * q32) = .ok m) :
    tickAtSqrtPrice price =
      tieBreak price (tickLow (logValue (price * q32) m)) (tickHigh (logValue (price * q32) m)) := by
  unfold tickAtSqrtPrice
  rw [if_neg (by rw [minSqrtRatio_eq, maxSqrtRatio_eq]; omega), hm]
  rfl

theorem tieBreak_of_eq {price low high : Int} (h : low = high) : tieBreak price low high = .ok low := if_pos h

/-- The tie-break takes the upper candidate exactly when its price is at most the operand (R125). -/
theorem tieBreak_of_ne {price low high p : Int} (h : low ≠ high) (hp : sqrtPriceAtTick high = .ok p) :
    tieBreak price low high = if p ≤ price then .ok high else .ok low := by
  unfold tieBreak
  rw [if_neg h, hp]
  rfl

theorem tsp_completesOk {price t : Int} (h : tickAtSqrtPrice price = .ok t) (b : Int) (s : State) :
    CompletesOk (.tsp price b) s t :=
  completesOk_of_execResult (i := .tsp price b) h s

/-- Settles O26: the answer is the tie-break's, and the upper candidate is a valid tick. -/
theorem tspTakesTheCandidateItsPriceSelects : Obligations.TspTakesTheCandidateItsPriceSelects := by
  intro price b m s hlo hhi hm low high
  have htie := tickAtSqrtPrice_eq_tieBreak hlo hhi hm
  refine ⟨fun heq => tsp_completesOk (htie.trans (tieBreak_of_eq heq)) b s, fun hne => ?_⟩
  obtain ⟨n, hn, hnlo, hnhi, hge, hle⟩ := rescaled_top_bit hlo hhi
  obtain rfl : (n : Int) = m := Result.ok.inj (hn.symm.trans hm)
  obtain ⟨hhlo, hhhi⟩ := tickHigh_bounds hnlo hnhi hge hle
  obtain ⟨p, hp⟩ := sqrtPriceAtTick_eq_ok hhlo hhhi
  rw [tieBreak_of_ne hne hp] at htie
  exact ⟨p, hp, fun hple => tsp_completesOk (htie.trans (if_pos hple)) b s,
    fun hlt => tsp_completesOk (htie.trans (if_neg hlt.not_ge)) b s⟩

/-- Settles O27: an in-domain price is answered, and the answer lies in its range. -/
theorem tspAnswersATickOfItsRange : Obligations.TspAnswersATickOfItsRange := by
  refine ⟨fun price b s hlo hhi => ?_, sqrtPriceAtTick_minTick, sqrtPriceAtTick_maxTick⟩
  obtain ⟨t, ht⟩ := tickAtSqrtPrice_eq_ok hlo hhi
  obtain ⟨htlo, hthi⟩ := tickAtSqrtPrice_range ht
  exact ⟨t, htlo, hthi, tsp_completesOk ht b s⟩

end Sys2Proof.Machine
end

section
/-! The accuracy of `SPT` in logarithms (41_tick_to_sqrtprice.md R101 to R106): the rescaled price of a tick is within a
billionth of the real one, as the ladder, the inversion and the ceiling each lose little. -/

namespace Sys2Proof.Machine

/-- The inverse ratio belongs to the opposite magnitude (R105). -/
theorem realRatio_mul_realRatio_neg (n : Int) : realRatio n * realRatio (-n) = 2 ^ 256 := by
  have hadd := realRatio_add n (-n)
  rw [add_neg_cancel, realRatio_zero, eq_div_iff (by positivity)] at hadd
  rw [← hadd]
  norm_num

/-- The real ratio of a valid tick is almost as large as the least ratio of the ladder. -/
theorem realRatio_ge {n : Int} (hhi : n ≤ 887272) : 18447437462383981785 ≤ realRatio n := by
  have herr := abs_le.1 (abs_ladderRatio_sub_realRatio (n := 887272) (by decide) (by decide))
  have hmin : (18447437462383981825 : ℝ) ≤ ladderRatio 887272 := by
    exact_mod_cast (ladderRatio_bounds (n := 887272) (by decide) le_rfl).1
  linarith [realRatio_antitone hhi]

/-- The inversion loses less than one unit of the quotient of `2^256` (R105). -/
theorem fdiv_maxUint256_mul_bounds {ratio : Int} (hpos : 0 < ratio) :
    fdiv maxUint256 ratio * ratio ≤ 2 ^ 256 ∧ 2 ^ 256 ≤ (fdiv maxUint256 ratio + 1) * ratio := by
  have hfloor := (le_fdiv_iff hpos _ maxUint256).1 le_rfl
  have hceil := (fdiv_lt_iff hpos _ maxUint256).1 (lt_add_one _)
  rw [maxUint256_eq] at *
  constructor <;> omega

/-- The inversion keeps the relative error of the ladder (R105). -/
theorem abs_fdiv_maxUint256_sub_le {t : Int} (hpos : 0 < t) (hhi : t ≤ 887272) :
    |(fdiv maxUint256 (ladderRatio t) : ℝ) - realRatio (-t)| ≤ realRatio (-t) / 10 ^ 10 := by
  have herr := abs_le.1 (abs_ladderRatio_sub_realRatio hpos.le (by omega))
  have hmin := (ladderRatio_bounds hpos.le hhi).1
  have hinv := realRatio_mul_realRatio_neg t
  have hbig : 2 ^ 128 ≤ realRatio (-t) := realRatio_zero ▸ realRatio_antitone (by omega : -t ≤ 0)
  obtain ⟨hfloor, hceil⟩ := fdiv_maxUint256_mul_bounds (ratio := ladderRatio t) (by omega)
  generalize fdiv _ (ladderRatio t) = quotient at *
  generalize ladderRatio t = ratio at *
  have hmin' : (18447437462383981825 : ℝ) ≤ ratio := by exact_mod_cast hmin
  have hpos' : (0 : ℝ) < ratio := by linarith
  have hfloor' : (quotient * ratio : ℝ) ≤ 2 ^ 256 := by exact_mod_cast hfloor
  have hceil' : (2 ^ 256 : ℝ) ≤ (quotient + 1) * ratio := by exact_mod_cast hceil
  have hupper : (quotient : ℝ) ≤ realRatio (-t) * (1 + 1 / 10 ^ 10) := by
    refine le_of_mul_le_mul_right (hfloor'.trans ?_) hpos'
    rw [← hinv]
    nlinarith
  have hlower : realRatio (-t) * (1 - 1 / 10 ^ 11) ≤ quotient + 1 := by
    refine le_of_mul_le_mul_right (le_trans ?_ hceil') hpos'
    rw [← hinv]
    nlinarith
  rw [abs_le]
  constructor <;> linarith

/-- The ratio after the inversion is that of the tick, up to a relative error (R105). -/
theorem abs_invertIfPositive_sub_le {t : Int} (hlo : -887272 ≤ t) (hhi : t ≤ 887272) :
    |(invertIfPositive t (ladderRatio (magnitude t)) : ℝ) - realRatio (-t)| ≤ realRatio (-t) / 10 ^ 10 := by
  rw [magnitude_eq]
  obtain hneg | hpos := le_or_gt t 0
  · rw [invertIfPositive_of_nonpos hneg, abs_of_nonpos hneg]
    have herr := abs_ladderRatio_sub_realRatio (n := -t) (by omega) (by omega)
    linarith [realRatio_ge (n := -t) (by omega)]
  · rw [invertIfPositive_of_pos hpos, abs_of_pos hpos]
    exact abs_fdiv_maxUint256_sub_le hpos hhi

/-- A ceiling quotient times its divisor reaches the dividend and exceeds it by less than the divisor (R11). -/
theorem cdiv_mul_bounds {b : Int} (hb : 0 < b) (a : Int) : a ≤ cdiv a b * b ∧ cdiv a b * b < a + b := by
  have hlast : (cdiv a b - 1) * b < a := not_le.1 (mt (cdiv_le_iff hb _ a).2 (by omega))
  exact ⟨(cdiv_le_iff hb _ a).1 le_rfl, by linarith⟩

/-- The price of a tick is the real one, up to a relative error (R106). -/
theorem abs_price_sub_realRatio_le {t p : Int} (h : sqrtPriceAtTick t = .ok p) :
    |((p * q32 : Int) : ℝ) - realRatio (-t)| ≤ realRatio (-t) * (5 / 10 ^ 10) := by
  obtain ⟨hlo, hhi, rfl⟩ := sqrtPriceAtTick_ok h
  have herr := abs_le.1 (abs_invertIfPositive_sub_le hlo hhi)
  obtain ⟨hle, hlt⟩ := cdiv_mul_bounds (b := q32) (by decide) (invertIfPositive t (ladderRatio (magnitude t)))
  generalize cdiv _ q32 * q32 = rescaled at *
  generalize invertIfPositive t _ = ratio at *
  have hle' : (ratio : ℝ) ≤ rescaled := by exact_mod_cast hle
  have hlt' : (rescaled : ℝ) < ratio + 4294967296 := by exact_mod_cast hlt
  have hmin := realRatio_ge (n := -t) (by omega)
  rw [abs_le]
  constructor <;> linarith

theorem log_sub_log_le {x y : ℝ} (hx : 0 < x) (hy : 0 < y) : Real.log y - Real.log x ≤ (y - x) / x := by
  rw [← Real.log_div hy.ne' hx.ne', sub_div, div_self hx.ne']
  exact Real.log_le_sub_one_of_pos (div_pos hy hx)

/-- A small relative error is as small a difference of logarithms. -/
theorem abs_log_sub_log_le {x y δ : ℝ} (hy : 0 < y) (hδ : δ ≤ 1 / 2) (h : |x - y| ≤ y * δ) :
    |Real.log x - Real.log y| ≤ 2 * δ := by
  obtain ⟨hlo, hhi⟩ := abs_le.1 h
  have hδpos : 0 ≤ δ := nonneg_of_mul_nonneg_right ((abs_nonneg _).trans h) hy
  have hhalf : y ≤ 2 * x := by nlinarith
  have hx : 0 < x := by linarith
  have hup : (x - y) / y ≤ 2 * δ := by rw [div_le_iff₀ hy]; nlinarith
  have hdown : (y - x) / x ≤ 2 * δ := by rw [div_le_iff₀ hx]; nlinarith
  rw [abs_le]
  constructor <;> linarith [log_sub_log_le hx hy, log_sub_log_le hy hx]

/-- The natural logarithm of the real square-root price ratio of one tick. -/
noncomputable def tickLog : ℝ := -Real.log tickFactor

theorem log_realRatio_neg (t : Int) : Real.log (realRatio (-t)) = 128 * Real.log 2 + t * tickLog := by
  rw [realRatio, Real.log_mul (by positivity) (zpow_pos tickFactor_pos _).ne', Real.log_zpow, Real.log_pow, tickLog]
  push_cast
  ring

/-- The logarithm of the price of a tick is within a billionth of the real one's (R106). -/
theorem abs_log_price_sub_le {t p : Int} (h : sqrtPriceAtTick t = .ok p) :
    |Real.log (p * q32 : Int) - (128 * Real.log 2 + t * tickLog)| ≤ 1 / 10 ^ 9 := by
  have hlog := abs_log_sub_log_le (realRatio_pos (-t)) (by norm_num) (abs_price_sub_realRatio_le h)
  rw [log_realRatio_neg] at hlog
  linarith

/-- The tick's logarithm to 16 decimals, from the first four terms of the series of `log (1 - x)`. -/
theorem tickLog_bounds : 499975001666 / 10 ^ 16 ≤ tickLog ∧ tickLog ≤ 499975001667 / 10 ^ 16 := by
  have hsq : -Real.log (1 - 1 / 10001) = 2 * tickLog := by
    have hpow := Real.log_pow tickFactor 2
    have hfactor : (1 : ℝ) - 1 / 10001 = 10000 / 10001 := by norm_num
    rw [tickFactor_sq] at hpow
    rw [hfactor, hpow, tickLog]
    push_cast
    ring
  have hseries := abs_le.1 (Real.abs_log_sub_add_sum_range_le (x := 1 / 10001) (by norm_num [abs_of_pos]) 4)
  norm_num [Finset.sum_range_succ, abs_of_pos] at hseries hsq
  constructor <;> linarith

/-- `LOG_MULT` turns a binary logarithm into ticks (R123). -/
theorem abs_logMult_mul_tickLog_sub_le : |(logMult : ℝ) / 2 ^ 64 * tickLog - Real.log 2| ≤ 1 / 10 ^ 9 := by
  obtain ⟨hlo, hhi⟩ := tickLog_bounds
  rw [logMult_eq, abs_le]
  push_cast
  constructor <;> linarith [Real.log_two_gt_d9, Real.log_two_lt_d9]

end Sys2Proof.Machine
end

section
/-! The accuracy of the logarithm of `TSP` (42_sqrtprice_to_tick.md R119 to R123): each shift of the remainder drops less
than one of its units, and squaring doubles what has been lost before. -/

namespace Sys2Proof.Machine

/-- A shift right is a division by the power, up to the dropped bits (R12). -/
theorem log_shr_bounds {a : Int} {j : Nat} (h : 2 ^ 127 ≤ shr a j) :
    Real.log (shr a j) ≤ Real.log a - j * Real.log 2 ∧
      Real.log a - j * Real.log 2 ≤ Real.log (shr a j) + 1 / 2 ^ 127 := by
  have hpow : (0 : Int) < 2 ^ j := by positivity
  have hfloor := (le_fdiv_iff hpow _ a).1 le_rfl
  have hceil := (fdiv_lt_iff hpow _ a).1 (lt_add_one _)
  have hshr : shr a j = fdiv a (2 ^ j) := by rw [shr, pow2_eq]
  rw [← hshr] at hfloor hceil
  generalize shr a j = q at *
  have hq : (2 ^ 127 : ℝ) ≤ q := by exact_mod_cast h
  have hqpos : (0 : ℝ) < q := lt_of_lt_of_le (by positivity) hq
  have hfloor' : (q * 2 ^ j : ℝ) ≤ a := by exact_mod_cast hfloor
  have hceil' : (a : ℝ) ≤ (q + 1) * 2 ^ j := by exact_mod_cast hceil.le
  have hapos : (0 : ℝ) < a := lt_of_lt_of_le (by positivity) hfloor'
  have hlow := Real.log_le_log (by positivity) hfloor'
  have hhigh := Real.log_le_log hapos hceil'
  rw [Real.log_mul (by positivity) (by positivity), Real.log_pow] at hlow hhigh
  have hnext := log_sub_log_le hqpos (by positivity : (0 : ℝ) < q + 1)
  rw [add_sub_cancel_left] at hnext
  have hunit : 1 / (q : ℝ) ≤ 1 / 2 ^ 127 := one_div_le_one_div_of_le (by positivity) hq
  constructor <;> linarith

theorem log_shl {v : Int} (hv : 0 < v) (j : Nat) : Real.log (shl v j) = Real.log v + j * Real.log 2 := by
  have hv' : (0 : ℝ) < v := by exact_mod_cast hv
  rw [shl_eq]
  push_cast
  rw [Real.log_mul hv'.ne' (by positivity), Real.log_pow]

/-- After `k` rounds the estimate, taken as a number of `64` fraction bits, and the remainder together give the binary
logarithm `L` (here in natural units) times `2^k`, up to the dropped bits (R120, R121). -/
def LogTracks (L : ℝ) (k : Nat) (st : LogScan) : Prop :=
  2 ^ k * (st.lg / 2 ^ 64 * Real.log 2) + (Real.log st.r - 127 * Real.log 2) ≤ 2 ^ k * L ∧
    2 ^ k * L ≤ 2 ^ k * (st.lg / 2 ^ 64 * Real.log 2) + (Real.log st.r - 127 * Real.log 2) + 4 ^ k / 2 ^ 126

/-- The seed is the integer part, and the normalised value the mantissa (R119). -/
theorem logTracks_logSeed {v : Int} {m : Nat} (hlo : 2 ^ m ≤ v) (hhi : v < 2 ^ (m + 1)) :
    LogTracks (Real.log v - 128 * Real.log 2) 0 (logSeed v m) := by
  obtain ⟨hr, -⟩ := normalise_bounds hlo hhi
  have hvpos : 0 < v := lt_of_lt_of_le (by positivity) hlo
  have hshift : Real.log (normalise v m) ≤ Real.log v - (m - 127) * Real.log 2 ∧
      Real.log v - (m - 127) * Real.log 2 ≤ Real.log (normalise v m) + 1 / 2 ^ 127 := by
    unfold normalise at hr ⊢
    split at hr
    · next hm =>
      rw [if_pos hm]
      have hj : (((m - 127 : Int).toNat : Nat) : ℝ) = m - 127 := by
        exact_mod_cast Int.toNat_of_nonneg (by omega : 0 ≤ (m - 127 : Int))
      rw [← hj]
      exact log_shr_bounds hr
    · next hm =>
      rw [if_neg hm, log_shl hvpos]
      have hj : (((127 - m : Int).toNat : Nat) : ℝ) = 127 - m := by
        exact_mod_cast Int.toNat_of_nonneg (by omega : 0 ≤ (127 - m : Int))
      rw [hj]
      have hunit : (0 : ℝ) ≤ 1 / 2 ^ 127 := by positivity
      constructor <;> linarith
  obtain ⟨hlow, hhigh⟩ := hshift
  unfold LogTracks
  rw [logSeed_r, logSeed_lg]
  rw [Int.cast_mul, Int.cast_pow, Int.cast_ofNat, mul_div_cancel_right₀ _ (by positivity)]
  push_cast
  constructor <;> linarith

/-- Squaring, dropping 127 bits and halving by the extracted bit (R120, R122). -/
theorem log_logRound_r {st : LogScan} {k : Nat} (hlo : 2 ^ 127 ≤ st.r) (hhi : st.r < 2 ^ 128) :
    Real.log (logRound st k).r ≤ 2 * Real.log st.r - 127 * Real.log 2 - roundBit st.r * Real.log 2 ∧
      2 * Real.log st.r - 127 * Real.log 2 - roundBit st.r * Real.log 2 ≤ Real.log (logRound st k).r + 1 / 2 ^ 126 := by
  obtain ⟨hq, hq'⟩ := square_bounds hlo hhi
  obtain ⟨-, hr, -⟩ := extracted_bit_cases hq hq'
  obtain ⟨hsq, hsq'⟩ := log_shr_bounds hq
  obtain ⟨hhalf, hhalf'⟩ := log_shr_bounds hr
  have hbit : ((roundBit st.r).toNat : ℝ) = roundBit st.r := by
    obtain hf | hf := roundBit_zero_or_one hlo hhi <;> simp [hf]
  have hrpos : (0 : ℝ) < st.r := by exact_mod_cast lt_of_lt_of_le (by positivity) hlo
  rw [← roundBit, ← logRound_r st k, hbit] at hhalf hhalf'
  rw [Int.cast_mul, Real.log_mul hrpos.ne' hrpos.ne', ← two_mul] at hsq hsq'
  push_cast at hsq hsq'
  constructor <;> linarith

theorem logTracks_logRound {L : ℝ} {n : Int} {k : Nat} {st : LogScan} (hk : k < 64) (hs : LogScanned n k st)
    (h : LogTracks L k st) : LogTracks L (k + 1) (logRound st k) := by
  have hlg := hs.lor_eq_add hk
  obtain ⟨hlo, hhi, -⟩ := hs
  obtain ⟨hr, hr'⟩ := log_logRound_r (k := k) hlo hhi
  obtain ⟨hlow, hhigh⟩ := h
  have hbit : (2 : ℝ) ^ (k + 1) * ((logRound st k).lg / 2 ^ 64 * Real.log 2) =
      2 * (2 ^ k * (st.lg / 2 ^ 64 * Real.log 2)) + roundBit st.r * Real.log 2 := by
    have hpow : (2 : ℝ) ^ (k + 1) * 2 ^ (63 - k) = 2 ^ 64 := by rw [← pow_add]; congr 1; omega
    rw [logRound_lg, hlg]
    push_cast
    field_simp
    linear_combination (roundBit st.r : ℝ) * hpow
  have herr : (1 : ℝ) / 2 ^ 126 ≤ 4 ^ k / 2 ^ 126 := by gcongr; exact one_le_pow₀ (by norm_num)
  unfold LogTracks
  rw [hbit, pow_succ' (2 : ℝ) k, pow_succ' (4 : ℝ) k]
  constructor <;> linarith

theorem logTracks_foldl {L : ℝ} {n : Int} {st : LogScan} (hs : LogScanned n 0 st) (h : LogTracks L 0 st) (k : Nat)
    (hk : k ≤ 64) : LogTracks L k ((List.range k).foldl logRound st) := by
  induction k with
  | zero => exact h
  | succ k ih =>
    rw [List.range_succ, List.foldl_append]
    exact logTracks_logRound hk (logScanned_foldl hs k (by omega)) (ih (by omega))

/-- The estimate falls short of the binary logarithm by at most one of its 14 fraction bits and the dropped bits. -/
theorem logEstimate_log_bounds {v : Int} {m : Nat} (hlo : 2 ^ m ≤ v) (hhi : v < 2 ^ (m + 1)) :
    (logEstimate v m : ℝ) / 2 ^ 64 * Real.log 2 ≤ Real.log v - 128 * Real.log 2 ∧
      Real.log v - 128 * Real.log 2 ≤
        (logEstimate v m : ℝ) / 2 ^ 64 * Real.log 2 + Real.log 2 / 2 ^ 14 + 1 / 2 ^ 100 := by
  have hseed := logScanned_logSeed hlo hhi
  obtain ⟨hrlo, hrhi, -⟩ := logScanned_foldl hseed 14 (by decide)
  obtain ⟨hlow, hhigh⟩ := logTracks_foldl hseed (logTracks_logSeed hlo hhi) 14 (by decide)
  have hlg : ((List.range 14).foldl logRound (logSeed v m)).lg = logEstimate v m := rfl
  rw [hlg] at hlow hhigh
  generalize ((List.range 14).foldl logRound (logSeed v m)).r = r at *
  have hrlo' : (2 ^ 127 : ℝ) ≤ r := by exact_mod_cast hrlo
  have hrhi' : (r : ℝ) ≤ 2 ^ 128 := by exact_mod_cast hrhi.le
  have hlogr := Real.log_le_log (by positivity) hrlo'
  have hlogr' := Real.log_le_log (lt_of_lt_of_le (by positivity) hrlo') hrhi'
  rw [Real.log_pow] at hlogr hlogr'
  push_cast at hlogr hlogr'
  constructor <;> linarith

/-- The product with `LOG_MULT` is the tick of the estimate, for the values a rescaled price can have (R123). -/
theorem abs_logValue_mul_tickLog_sub_le {v : Int} {m : Nat} (hlo : 2 ^ m ≤ v) (hhi : v < 2 ^ (m + 1)) (hm : 64 ≤ m)
    (hm' : m ≤ 191) :
    |(logValue v m : ℝ) / 2 ^ 128 * tickLog - logEstimate v m / 2 ^ 64 * Real.log 2| ≤ 64 / 10 ^ 9 := by
  obtain ⟨c, hc, hclo, hchi⟩ := logEstimate_bounds hlo hhi
  have hbound : |(logEstimate v m : ℝ) / 2 ^ 64| ≤ 64 := by
    rw [abs_le, le_div_iff₀ (by positivity), div_le_iff₀ (by positivity), hc]
    norm_cast
    omega
  calc |(logValue v m : ℝ) / 2 ^ 128 * tickLog - logEstimate v m / 2 ^ 64 * Real.log 2|
    _ = |logEstimate v m / 2 ^ 64 * ((logMult : ℝ) / 2 ^ 64 * tickLog - Real.log 2)| := by
      rw [logValue]; push_cast; ring_nf
    _ ≤ 64 * (1 / 10 ^ 9) := by
      rw [abs_mul]
      exact mul_le_mul hbound abs_logMult_mul_tickLog_sub_le (abs_nonneg _) (by norm_num)
    _ = 64 / 10 ^ 9 := by ring

end Sys2Proof.Machine
end

section
/-! The contract of `TSP` (42_sqrtprice_to_tick.md R126, R129): the tick of the price lies between the candidates, so the
tie-break finds it. -/

namespace Sys2Proof.Machine

/-- In logarithms the lower candidate lies below its value by what `C_LOW` takes away, or more (R124). -/
theorem tickLow_mul_tickLog_le (lv : Int) :
    tickLow lv * tickLog ≤ lv / 2 ^ 128 * tickLog - 4 / 10 ^ 7 := by
  obtain ⟨⟨hfloor, -⟩, -⟩ := candidatesAreFloorsAndDifferByAtMostOne lv
  rw [cLow_eq] at hfloor
  have hreal : (tickLow lv * 2 ^ 128 : ℝ) ≤ lv - 3402992956809132418596140100660247210 := by exact_mod_cast hfloor
  have hlog := tickLog_bounds.1
  have hle : (tickLow lv : ℝ) ≤ lv / 2 ^ 128 - 1 / 100 := by linarith
  linarith [mul_le_mul_of_nonneg_right hle (by linarith : 0 ≤ tickLog)]

/-- In logarithms the tick after the upper candidate lies above its value by what `C_HIGH` adds, or more (R124). -/
theorem le_tickHigh_succ_mul_tickLog (lv : Int) :
    lv / 2 ^ 128 * tickLog + 428 / 10 ^ 7 ≤ ((tickHigh lv + 1 : Int) : ℝ) * tickLog := by
  obtain ⟨-, ⟨-, hceil⟩, -⟩ := candidatesAreFloorsAndDifferByAtMostOne lv
  rw [cHigh_eq] at hceil
  have hreal : (lv + 291339464771989622907027621153398088495 : ℝ) < ((tickHigh lv + 1 : Int) : ℝ) * 2 ^ 128 := by
    exact_mod_cast hceil
  have hlog := tickLog_bounds.1
  have hle : (lv : ℝ) / 2 ^ 128 + 85616 / 100000 ≤ ((tickHigh lv + 1 : Int) : ℝ) := by linarith
  linarith [mul_le_mul_of_nonneg_right hle (by linarith : 0 ≤ tickLog)]

theorem rescaled_price_pos {t p : Int} (h : sqrtPriceAtTick t = .ok p) : (0 : ℝ) < (p * q32 : Int) := by
  have hrange := sqrtPriceAtTick_range h
  rw [q32_eq, Int.cast_pos]
  omega

/-- The lower candidate's price is at most the operand: `C_LOW` outweighs every error above the logarithm (R126). -/
theorem price_tickLow_le {price p : Int} {m : Nat} (hlo : 2 ^ m ≤ price * q32) (hhi : price * q32 < 2 ^ (m + 1))
    (hm : 64 ≤ m) (hm' : m ≤ 191) (hp : sqrtPriceAtTick (tickLow (logValue (price * q32) m)) = .ok p) :
    p ≤ price := by
  obtain ⟨-, hprice⟩ := abs_le.1 (abs_log_price_sub_le hp)
  obtain ⟨-, hvalue⟩ := abs_le.1 (abs_logValue_mul_tickLog_sub_le hlo hhi hm hm')
  obtain ⟨hestimate, -⟩ := logEstimate_log_bounds hlo hhi
  have htick := tickLow_mul_tickLog_le (logValue (price * q32) m)
  have hpos : (0 : ℝ) < (price * q32 : Int) := by exact_mod_cast lt_of_lt_of_le (by positivity) hlo
  have hlog : Real.log (p * q32 : Int) ≤ Real.log (price * q32 : Int) := by linarith
  have hle : p * q32 ≤ price * q32 := by exact_mod_cast (Real.log_le_log_iff (rescaled_price_pos hp) hpos).1 hlog
  exact le_of_mul_le_mul_right hle (by decide)

/-- The price of the tick after the upper candidate is above the operand: `C_HIGH` outweighs the last fraction bit and
every error below the logarithm (R126). -/
theorem lt_price_tickHigh_succ {price p : Int} {m : Nat} (hlo : 2 ^ m ≤ price * q32) (hhi : price * q32 < 2 ^ (m + 1))
    (hm : 64 ≤ m) (hm' : m ≤ 191) (hp : sqrtPriceAtTick (tickHigh (logValue (price * q32) m) + 1) = .ok p) :
    price < p := by
  obtain ⟨hprice, -⟩ := abs_le.1 (abs_log_price_sub_le hp)
  obtain ⟨hvalue, -⟩ := abs_le.1 (abs_logValue_mul_tickLog_sub_le hlo hhi hm hm')
  obtain ⟨-, hestimate⟩ := logEstimate_log_bounds hlo hhi
  have htick := le_tickHigh_succ_mul_tickLog (logValue (price * q32) m)
  have hpos : (0 : ℝ) < (price * q32 : Int) := by exact_mod_cast lt_of_lt_of_le (by positivity) hlo
  have hlog : Real.log (price * q32 : Int) < Real.log (p * q32 : Int) := by linarith [Real.log_two_lt_d9]
  have hlt : price * q32 < p * q32 := by exact_mod_cast (Real.log_lt_log_iff hpos (rescaled_price_pos hp)).1 hlog
  exact lt_of_mul_lt_mul_right hlt (by decide)

/-- The answer's price interval holds the operand: the candidates enclose the interval, and where they differ the
tie-break compares with the price between them (R125, R126). -/
theorem tickAtSqrtPrice_contract {price t p p' : Int} (h : tickAtSqrtPrice price = .ok t)
    (hp : sqrtPriceAtTick t = .ok p) (hp' : sqrtPriceAtTick (t + 1) = .ok p') : p ≤ price ∧ price < p' := by
  obtain ⟨-, -, m, hmlo, hmhi, hge, hle, htie⟩ := tickAtSqrtPrice_ok h
  have hbelow := price_tickLow_le (p := p) hmlo hmhi hge hle
  have habove := lt_price_tickHigh_succ (p := p') hmlo hmhi hge hle
  have hnext := tickHigh_eq_tickLow_or_succ (logValue (price * q32) m)
  generalize tickLow _ = low at *
  generalize tickHigh _ = high at *
  obtain ⟨rfl, rfl⟩ | ⟨q, hne, hq, ⟨hqle, rfl⟩ | ⟨hqgt, rfl⟩⟩ := tieBreak_ok htie
  · exact ⟨hbelow hp, habove hp'⟩
  · rw [Result.ok.inj (hp.symm.trans hq)]
    exact ⟨hqle, habove hp'⟩
  · obtain rfl : high = t + 1 := hnext.resolve_left (Ne.symm hne)
    rw [Result.ok.inj (hp'.symm.trans hq)]
    exact ⟨hbelow hp, hqgt⟩

/-- A smaller price is the price of a smaller tick (R107). -/
theorem tick_lt_of_price_lt {t t' p p' : Int} (hp : sqrtPriceAtTick t = .ok p) (hp' : sqrtPriceAtTick t' = .ok p')
    (h : p < p') : t < t' := by
  by_contra hge
  obtain heq | hlt := (not_lt.1 hge).eq_or_lt
  · exact tick_ne_of_price_ne hp hp' h.ne heq.symm
  · exact (sptIsStrictlyIncreasing.1 t' t p' p hlt hp' hp).not_gt h

/-- Price intervals of different ticks do not meet (R126). -/
theorem tick_eq_of_price_interval {t u p p' q q' price : Int} (hp : sqrtPriceAtTick t = .ok p)
    (hp' : sqrtPriceAtTick (t + 1) = .ok p') (hq : sqrtPriceAtTick u = .ok q) (hq' : sqrtPriceAtTick (u + 1) = .ok q')
    (hple : p ≤ price) (hlt : price < p') (hqle : q ≤ price) (hlt' : price < q') : u = t := by
  have htu := tick_lt_of_price_lt hp hq' (hple.trans_lt hlt')
  have hut := tick_lt_of_price_lt hq hp' (hqle.trans_lt hlt)
  omega

/-- Settles O28: an in-domain price is answered, the answer's interval holds it, and no other interval does. -/
theorem tspMeetsItsContract : Obligations.TspMeetsItsContract := by
  intro price b s hlo hhi
  obtain ⟨t, ht⟩ := tickAtSqrtPrice_eq_ok hlo hhi
  obtain ⟨htlo, hthi⟩ := tickAtSqrtPrice_range ht
  obtain ⟨p, hp⟩ := sqrtPriceAtTick_eq_ok (tick := t) (by omega) (by omega)
  obtain ⟨p', hp'⟩ := sqrtPriceAtTick_eq_ok (tick := t + 1) (by omega) (by omega)
  obtain ⟨hple, hlt⟩ := tickAtSqrtPrice_contract ht hp hp'
  exact ⟨t, p, p', tsp_completesOk ht b s, hp, hp', hple, hlt,
    fun u q q' hq hq' => tick_eq_of_price_interval hp hp' hq hq' hple hlt⟩

/-- `TSP` of the price of a tick is the tick, as its price is the least of its interval (R129). -/
theorem tsp_of_price_completesOk {t p : Int} (hp : sqrtPriceAtTick t = .ok p) (ht : t ≤ 887271) (b : Int) (s : State) :
    CompletesOk (.tsp p b) s t := by
  obtain ⟨hlo, -, -⟩ := sqrtPriceAtTick_ok hp
  obtain ⟨p', hp'⟩ := sqrtPriceAtTick_eq_ok (tick := t + 1) (by omega) (by omega)
  have hlt := sptIsStrictlyIncreasing.1 _ _ _ _ (lt_add_one t) hp hp'
  obtain ⟨u, -, -, hcompletes, -, -, -, -, hunique⟩ := tspMeetsItsContract p b s (sqrtPriceAtTick_range hp).1
    (hlt.trans_le (sqrtPriceAtTick_range hp').2)
  rwa [hunique t p p' hp hp' le_rfl hlt]

/-- Settles O29: below `MAX_TICK` by the contract, and the price of `MAX_TICK` lies outside the domain. -/
theorem roundTripIsExactBelowMaxTick : Obligations.RoundTripIsExactBelowMaxTick := by
  intro t p b s hp
  have hmax : CompletesErr (.tsp maxSqrtRatio b) s 0x14 := tspRejectsOutsideItsDomain _ b s (.inr le_rfl)
  refine ⟨fun ht => tsp_of_price_completesOk hp ht b s, ?_,
    tsp_of_price_completesOk sqrtPriceAtTick_minTick (by decide) b s, hmax⟩
  rintro rfl
  obtain rfl : maxSqrtRatio = p := Result.ok.inj (sqrtPriceAtTick_maxTick.symm.trans hp)
  exact hmax

end Sys2Proof.Machine
end

section
/-! The usable ticks and what `MLT` answers (43_max_liquidity.md R137 to R140). -/

namespace Sys2Proof.Machine

theorem maxUsable_eq (spacing : Int) : maxUsable spacing = fdiv 887272 spacing * spacing := by
  rw [maxUsable, maxTick_eq, tdiv_eq_fdiv (by decide)]

/-- The quotient toward zero is odd in its dividend (R137, decision D12). -/
theorem minUsable_eq (spacing : Int) : minUsable minTickRounding spacing = -fdiv 887272 spacing * spacing := by
  rw [minUsable, minTickRounding, divRounded, minTick_eq, tdiv_eq_cdiv (by decide)]
  rfl

/-- The usable ticks on either side of tick 0 number from none to all the ticks there (R138). -/
theorem usableQuotient_bounds {spacing : Int} (h : 1 ≤ spacing) :
    0 ≤ fdiv 887272 spacing ∧ fdiv 887272 spacing ≤ 887272 := by
  have hpos : 0 < spacing := by omega
  rw [le_fdiv_iff hpos, fdiv_le_iff hpos]
  omega

theorem usableQuotient_anti {spacing spacing' : Int} (h : 1 ≤ spacing) (hle : spacing ≤ spacing') :
    fdiv 887272 spacing' ≤ fdiv 887272 spacing := by
  have hpos : 0 < spacing' := by omega
  rw [le_fdiv_iff (by omega)]
  calc fdiv 887272 spacing' * spacing
      ≤ fdiv 887272 spacing' * spacing' :=
        mul_le_mul_of_nonneg_left hle (usableQuotient_bounds (h.trans hle)).1
    _ ≤ 887272 := (le_fdiv_iff hpos _ _).1 le_rfl

theorem numTicks_bounds {spacing : Int} (h : 1 ≤ spacing) :
    1 ≤ numTicks minTickRounding spacing ∧ numTicks minTickRounding spacing ≤ 1774545 := by
  have hq := usableQuotient_bounds h
  rw [numTicks_eq h]
  omega

/-- The multiples of the spacing in the tick range are its multiples by the integers from `-q` to `q`. -/
theorem usableTicks_eq_map {spacing : Int} (h : 0 < spacing) :
    (Finset.Icc (-887272 : Int) 887272).filter (spacing ∣ ·) =
      (Finset.Icc (-fdiv 887272 spacing) (fdiv 887272 spacing)).map
        ⟨(· * spacing), mul_left_injective₀ h.ne'⟩ := by
  have hrange (k : Int) : (-fdiv 887272 spacing ≤ k ∧ k ≤ fdiv 887272 spacing) ↔
      (-887272 ≤ k * spacing ∧ k * spacing ≤ 887272) := by
    rw [neg_le, le_fdiv_iff h, le_fdiv_iff h, neg_mul, neg_le]
  ext x
  simp only [Finset.mem_filter, Finset.mem_map, Finset.mem_Icc, Function.Embedding.coeFn_mk]
  constructor
  · rintro ⟨hx, k, rfl⟩
    rw [mul_comm] at hx ⊢
    exact ⟨k, (hrange k).2 hx, rfl⟩
  · rintro ⟨k, hk, rfl⟩
    exact ⟨(hrange k).1 hk, dvd_mul_left _ _⟩

/-- `numTicks` counts the usable ticks (R138). -/
theorem numTicks_eq_card {spacing : Int} (h : 1 ≤ spacing) :
    numTicks minTickRounding spacing = (((Finset.Icc (-887272 : Int) 887272).filter (spacing ∣ ·)).card : Int) := by
  have hq := (usableQuotient_bounds h).1
  rw [usableTicks_eq_map (by omega), Finset.card_map, Int.card_Icc, numTicks_eq h]
  omega

theorem maxLiquidityPerTick_of_pos {spacing : Int} (h : 1 ≤ spacing) (r : Config.Rounding) :
    maxLiquidityPerTick r spacing = .ok (fdiv (2 ^ 128 - 1) (numTicks r spacing)) :=
  if_neg (by omega)

theorem maxLiquidityPerTick_of_nonpos {spacing : Int} (h : spacing ≤ 0) (r : Config.Rounding) :
    maxLiquidityPerTick r spacing = .err .spacingNotPositive :=
  if_pos h

theorem mlt_completesOk {spacing : Int} (h : 1 ≤ spacing) (b : Int) (s : State) :
    CompletesOk (.mlt spacing b) s (fdiv (2 ^ 128 - 1) (numTicks minTickRounding spacing)) :=
  completesOk_of_execResult (i := .mlt spacing b) (maxLiquidityPerTick_of_pos h _) s

/-- Settles O30: both usable ends are `q` steps of the spacing from tick 0. -/
theorem mltHasItsClosedForm : Obligations.MltHasItsClosedForm := by
  intro spacing b s h q
  have hwidth : maxUsable spacing - minUsable minTickRounding spacing = 2 * q * spacing := by
    rw [maxUsable_eq, minUsable_eq]
    ring
  have hticks : numTicks minTickRounding spacing = 2 * q + 1 := numTicks_eq h
  have hodd : numTicks minTickRounding spacing % 2 = 1 := by omega
  have hmlt := mlt_completesOk h b s
  rw [hticks] at hmlt
  exact ⟨maxUsable_eq spacing, minUsable_eq spacing, hwidth, ⟨2 * q, by rw [hwidth, mul_comm]⟩, hticks, hodd,
    (numTicks_bounds h).1, (numTicks_bounds h).2, numTicks_eq_card h, hmlt⟩

/-- A liquidity is at most the ceiling exactly when its total over the usable ticks stays within `MAX_UINT128` (R139). -/
theorem le_ceiling_iff {spacing : Int} (h : 1 ≤ spacing) (w : Int) :
    w ≤ fdiv (2 ^ 128 - 1) (numTicks minTickRounding spacing) ↔
      numTicks minTickRounding spacing * w ≤ 2 ^ 128 - 1 := by
  have hpos := (numTicks_bounds h).1
  rw [le_fdiv_iff (by omega), mul_comm]

/-- A larger spacing has no more usable ticks, so the smaller one's ceiling is safe for it too (R139). -/
theorem ceiling_mono {spacing spacing' : Int} (h : 1 ≤ spacing) (hle : spacing ≤ spacing') :
    fdiv (2 ^ 128 - 1) (numTicks minTickRounding spacing) ≤
      fdiv (2 ^ 128 - 1) (numTicks minTickRounding spacing') := by
  have hceiling := maxLiquidityPerTick_range (maxLiquidityPerTick_of_pos h minTickRounding)
  have hsafe := (le_ceiling_iff h _).1 le_rfl
  have hticks : numTicks minTickRounding spacing' ≤ numTicks minTickRounding spacing := by
    have hq := usableQuotient_anti h hle
    rw [numTicks_eq h, numTicks_eq (h.trans hle)]
    omega
  rw [le_ceiling_iff (h.trans hle)]
  exact (mul_le_mul_of_nonneg_right hticks (by omega)).trans hsafe

/-- Settles O31: the floor quotient is the largest safe ceiling, and what is safe for a spacing is safe for a larger one. -/
theorem mltIsTheLargestSafeCeiling : Obligations.MltIsTheLargestSafeCeiling := by
  intro spacing b s h
  obtain ⟨hlo, hhi⟩ := maxLiquidityPerTick_range (maxLiquidityPerTick_of_pos h minTickRounding)
  refine ⟨_, mlt_completesOk h b s, (le_ceiling_iff h _).1 le_rfl, fun w => (le_ceiling_iff h w).2, ?_, hlo, hhi,
    fun spacing' v' hle hv' => ?_⟩
  · decide +kernel
  · rw [maxLiquidityPerTick_of_pos (h.trans hle)] at hv'
    exact (ceiling_mono h hle).trans_eq (Result.ok.inj hv')

/-- Settles O32: the spacing decides the error, and a command completes with its outcome. -/
theorem mltRejectsNonPositiveSpacing : Obligations.MltRejectsNonPositiveSpacing := by
  intro spacing b s h
  have hstatus : statusOf .spacingNotPositive = 0x88 := by decide
  rw [← hstatus]
  exact completesErr_of_execResult (i := .mlt spacing b) (maxLiquidityPerTick_of_nonpos h _) s

/-- A quotient toward minus infinity puts one more tick below the range, unless the spacing divides it (R137). -/
theorem numTicks_towardMinusInfinity {spacing : Int} (h : 1 ≤ spacing) :
    numTicks .towardMinusInfinity spacing =
      numTicks minTickRounding spacing + if spacing ∣ 887272 then 0 else 1 := by
  have hmin : fdiv (-887272) spacing = -cdiv 887272 spacing := (neg_neg _).symm
  have hwidth : numTicks .towardMinusInfinity spacing = fdiv 887272 spacing + cdiv 887272 spacing + 1 := by
    rw [numTicks, maxUsable_eq, minUsable, divRounded, minTick_eq, hmin, ← sub_mul, sub_neg_eq_add,
      fdiv_eq (_ * _), Int.mul_ediv_cancel _ (by omega)]
  have hdvd : fmod 887272 spacing ≠ 0 ↔ ¬ spacing ∣ 887272 := by
    rw [fmod_eq, Int.dvd_iff_emod_eq_zero]
  rw [hwidth, cdiv_eq_fdiv_add_ite (by omega), numTicks_eq h]
  simp only [hdvd, ite_not]
  ring

/-- One more divisor lowers the floor quotient where the dividend reaches the divisor's square: a quotient of at least
`n` by `n + 1` leaves a further `n`, and a smaller one is passed by `n` itself. -/
theorem fdiv_succ_lt_fdiv {n a : Int} (hpos : 0 < n) (h : n * n ≤ a) : fdiv a (n + 1) < fdiv a n := by
  have hfit : fdiv a (n + 1) * (n + 1) ≤ a := (le_fdiv_iff (by omega) _ _).1 le_rfl
  rw [← Int.add_one_le_iff, le_fdiv_iff hpos]
  obtain hlt | hge := lt_or_ge (fdiv a (n + 1)) n
  · exact (mul_le_mul_of_nonneg_right hlt hpos.le).trans h
  · linarith

/-- Settles O33: the counts of ticks differ by one where the spacing does not divide 887272, and as their squares stay far
below `MAX_UINT128`, so do its quotients differ. -/
theorem roundingMattersUnlessSpacingDivides : Obligations.RoundingMattersUnlessSpacingDivides := by
  intro spacing h
  rw [maxLiquidityPerTick_of_pos h, maxLiquidityPerTick_of_pos h, Result.ok.injEq, numTicks_towardMinusInfinity h,
    ← minTickRounding]
  split_ifs with hdvd
  · simp [hdvd]
  · obtain ⟨hlo, hhi⟩ := numTicks_bounds h
    have hsquare : numTicks minTickRounding spacing * numTicks minTickRounding spacing ≤ 2 ^ 128 - 1 := by nlinarith
    have hlt := fdiv_succ_lt_fdiv (by omega) hsquare
    exact iff_of_false hlt.ne' hdvd

end Sys2Proof.Machine
end

section
/-! What `ALD` answers (44_liquidity_delta.md R146 to R151): the outcome map of R148, and the exact sum wherever it
succeeds. -/

namespace Sys2Proof.Machine

theorem magnitude_of_neg {v : Int} (h : v < 0) : magnitude v = -v := by
  rw [magnitude_eq, abs_of_neg h]

/-- The check on the magnitude, made before the sign is looked at, refuses both sides of the range (R147). -/
theorem magnitude_gt_iff (v bound : Int) : magnitude v > bound ↔ v > bound ∨ v < -bound := by
  rw [magnitude_eq, gt_iff_lt, lt_abs, lt_neg]

/-- The outcome of `ALD` by the rows of R148. -/
theorem addLiquidityDelta_eq_rows (x y : Int) :
    addLiquidityDelta x y =
      if x > 2 ^ 128 - 1 then .err .overflow
      else if y > 2 ^ 128 - 1 ∨ y < -(2 ^ 128 - 1) then .err .overflow
      else if y < 0 ∧ -y > x then .err .underflow
      else if y < 0 then .ok (x + y)
      else if x < 0 then .err .negativeLiquidity
      else if x + y > 2 ^ 128 - 1 then .err .overflow
      else .ok (x + y) := by
  have hmax : maxUint128 = 2 ^ 128 - 1 := by decide
  simp only [addLiquidityDelta, hmax, magnitude_gt_iff y (2 ^ 128 - 1)]
  by_cases hy : y < 0
  · simp only [hy, if_true, true_and, magnitude_of_neg hy, sub_neg_eq_add]
  · simp only [hy, if_false, false_and]

/-- A success is the exact sum, in either branch of the sign (R149). -/
theorem addLiquidityDelta_eq_add {x y v : Int} (h : addLiquidityDelta x y = .ok v) : v = x + y := by
  rw [addLiquidityDelta_eq_rows] at h
  split_ifs at h <;> exact (Result.ok.inj h).symm

/-- Settles O34: each row gives the outcome, and a command completes with its outcome; the conditions of the rows before
a row of success put the sum in its range. -/
theorem aldFollowsItsOutcomeMap : Obligations.AldFollowsItsOutcomeMap := by
  intro x y s M
  have houtcome : execResult (.ald x y) = _ := addLiquidityDelta_eq_rows x y
  have hoverflow : statusOf .overflow = 0x25 := by decide
  have hunderflow : statusOf .underflow = 0x46 := by decide
  have hnegative : statusOf .negativeLiquidity = 0x89 := by decide
  rw [← hoverflow, ← hunderflow, ← hnegative]
  split_ifs at houtcome ⊢
  · exact completesErr_of_execResult houtcome s
  · exact completesErr_of_execResult houtcome s
  · exact completesErr_of_execResult houtcome s
  · exact ⟨completesOk_of_execResult houtcome s, by omega, by omega⟩
  · exact completesErr_of_execResult houtcome s
  · exact completesErr_of_execResult houtcome s
  · exact ⟨completesOk_of_execResult houtcome s, by omega, by omega⟩

/-- Settles O35, by the outcome: a success shows code 0 and is the exact sum within the range of a liquidity, and an error
shows another code and leaves a free value. -/
theorem aldSucceedsOnlyWithTheExactSum : Obligations.AldSucceedsOnlyWithTheExactSum := by
  intro x y s
  cases houtcome : addLiquidityDelta x y with
  | ok v =>
    obtain rfl := addLiquidityDelta_eq_add houtcome
    exact ⟨_, completesOk_of_execResult (i := .ald x y) houtcome s, fun _ => ⟨rfl, addLiquidityDelta_range houtcome⟩,
      fun hcode => absurd statusCode_statusOk hcode⟩
  | err e =>
    exact ⟨_, completesErr_of_execResult (i := .ald x y) houtcome s,
      fun hcode => absurd hcode (statusCode_statusOf_ne_zero e), fun _ => rfl⟩

end Sys2Proof.Machine
end

section
/-! The status bytes (60_exceptions.md R161). -/

namespace Sys2Proof.Machine

/-- Settles O37: each code and the flags that follow from it, evaluated. -/
theorem eachErrorHasItsStatusByte : Obligations.EachErrorHasItsStatusByte := by
  unfold Obligations.EachErrorHasItsStatusByte
  decide

end Sys2Proof.Machine
end

section
/-! Copies of CORE side by side (60_exceptions.md R186): an edge of one copy depends on that copy alone and writes no
other, so a schedule gives each copy the edges it would have alone, and edges of different copies commute. -/

namespace Sys2Proof.Machine

/-- A clock edge goes on or finds the machine stuck (R191). -/
theorem step_next_or_stuck (s : State) : (∃ t, step s = .next t) ∨ step s = .fault .beforeFirstReset := by
  cases h : step s with
  | next t => exact .inl ⟨t, rfl⟩
  | fault r => cases r; exact .inr rfl
  | refused r => exact absurd h (step_ne_refused s r)

theorem runEdges_one (s : State) : runEdges 1 s = step s := by
  simp only [runEdges]
  split <;> simp [*]

/-! One edge of the system. -/

theorem systemEdge_of_no_copy {sys : System} {k : Nat} (hk : sys[k]? = none) : systemEdge sys k = .next sys := by
  simp [systemEdge, hk]

theorem systemEdge_of_next {sys : System} {k : Nat} {s t : State} (hk : sys[k]? = some s) (hstep : step s = .next t) :
    systemEdge sys k = .next (sys.set k t) := by
  simp [systemEdge, hk, hstep]

theorem systemEdge_of_fault {sys : System} {k : Nat} {s : State} {r : Fault} (hk : sys[k]? = some s)
    (hstep : step s = .fault r) : systemEdge sys k = .fault r := by
  simp [systemEdge, hk, hstep]

/-- The inversion of an edge of the system: where it goes on, there was no copy at the position, or its copy stepped. -/
theorem systemEdge_cases {sys sys' : System} {k : Nat} (h : systemEdge sys k = .next sys') :
    (sys[k]? = none ∧ sys' = sys) ∨ ∃ s t, sys[k]? = some s ∧ step s = .next t ∧ sys' = sys.set k t := by
  cases hk : sys[k]? with
  | none =>
    rw [systemEdge_of_no_copy hk] at h
    cases h
    exact .inl ⟨rfl, rfl⟩
  | some s =>
    obtain ⟨t, hstep⟩ | hstep := step_next_or_stuck s
    · rw [systemEdge_of_next hk hstep] at h
      cases h
      exact .inr ⟨s, t, rfl, hstep, rfl⟩
    · rw [systemEdge_of_fault hk hstep] at h
      cases h

/-- An edge of copy `k` is told by copy `k` alone: in every system with the same copy there it writes the same state to
that position, or stops the run. Where no copy stands at `k` nothing is written. -/
theorem systemEdge_depends_on_its_copy (sys : System) (k : Nat) :
    (∃ t, ∀ sys' : System, sys'[k]? = sys[k]? → systemEdge sys' k = .next (sys'.set k t)) ∨
      ∀ sys' : System, sys'[k]? = sys[k]? → systemEdge sys' k = .fault .beforeFirstReset := by
  cases hk : sys[k]? with
  | none =>
    refine .inl ⟨State.reset, fun sys' hk' => ?_⟩
    rw [List.set_eq_of_length_le (List.getElem?_eq_none_iff.1 hk'), systemEdge_of_no_copy hk']
  | some s =>
    obtain ⟨t, hstep⟩ | hstep := step_next_or_stuck s
    · exact .inl ⟨t, fun sys' hk' => systemEdge_of_next hk' hstep⟩
    · exact .inr fun sys' hk' => systemEdge_of_fault hk' hstep

/-! Schedules. -/

theorem systemRun_cons_of_next {sys sys' : System} {k : Nat} (schedule : List Nat) (h : systemEdge sys k = .next sys') :
    systemRun sys (k :: schedule) = systemRun sys' schedule := by
  simp [systemRun, h]

theorem systemRun_cons_of_fault {sys : System} {k : Nat} {r : Fault} (schedule : List Nat)
    (h : systemEdge sys k = .fault r) : systemRun sys (k :: schedule) = .fault r := by
  simp [systemRun, h]

/-- A run that goes on past an edge has a system after that edge. -/
theorem systemRun_cons_cases {sys sys' : System} {k : Nat} {schedule : List Nat}
    (h : systemRun sys (k :: schedule) = .next sys') :
    ∃ mid, systemEdge sys k = .next mid ∧ systemRun mid schedule = .next sys' := by
  cases hedge : systemEdge sys k with
  | next mid => exact ⟨mid, rfl, by simpa [systemRun, hedge] using h⟩
  | fault r => simp [systemRun, hedge] at h
  | refused r => simp [systemRun, hedge] at h

/-- From `sys` to `sys'` each copy made the run it makes alone in the edges `schedule` gives it (R186). -/
def RunsEachAlone (schedule : List Nat) (sys sys' : System) : Prop :=
  sys'.length = sys.length ∧
    ∀ (k : Nat) (s : State), sys[k]? = some s →
      ∃ s', sys'[k]? = some s' ∧ runEdges (schedule.count k) s = .next s'

theorem RunsEachAlone.refl (sys : System) : RunsEachAlone [] sys sys := ⟨rfl, fun _ s hs => ⟨s, hs, rfl⟩⟩

theorem RunsEachAlone.trans {ks ls : List Nat} {sys mid sys' : System} (h : RunsEachAlone ks sys mid)
    (h' : RunsEachAlone ls mid sys') : RunsEachAlone (ks ++ ls) sys sys' := by
  obtain ⟨hlength, hruns⟩ := h
  obtain ⟨hlength', hruns'⟩ := h'
  refine ⟨hlength'.trans hlength, fun k s hs => ?_⟩
  obtain ⟨u, hu, hrun⟩ := hruns k s hs
  obtain ⟨s', hs', hrun'⟩ := hruns' k u hu
  exact ⟨s', hs', by rw [List.count_append, runEdges_add _ hrun, hrun']⟩

/-- One edge of the system is one edge of its copy and none of any other. -/
theorem runsEachAlone_edge {sys sys' : System} {k : Nat} (h : systemEdge sys k = .next sys') :
    RunsEachAlone [k] sys sys' := by
  obtain ⟨hk, rfl⟩ | ⟨s, t, hk, hstep, rfl⟩ := systemEdge_cases h
  · refine ⟨rfl, fun i u hu => ⟨u, hu, ?_⟩⟩
    have hne : i ≠ k := by rintro rfl; simp [hk] at hu
    rw [List.count_eq_zero_of_not_mem (by simpa using hne), runEdges]
  · refine ⟨List.length_set, fun i u hu => ?_⟩
    obtain rfl | hne := eq_or_ne i k
    · obtain rfl : s = u := Option.some.inj (hk.symm.trans hu)
      obtain ⟨hlt, _⟩ := List.getElem?_eq_some_iff.1 hk
      exact ⟨t, List.getElem?_set_self hlt, by rw [List.count_singleton_self, runEdges_one, hstep]⟩
    · refine ⟨u, by rw [List.getElem?_set_ne hne.symm, hu], ?_⟩
      rw [List.count_eq_zero_of_not_mem (by simpa using hne), runEdges]

/-- A run of the system gives each copy the run it would have alone, whichever copies it was started with. -/
theorem runsEachAlone_of_systemRun {schedule : List Nat} {sys sys' : System} (h : systemRun sys schedule = .next sys') :
    RunsEachAlone schedule sys sys' := by
  induction schedule generalizing sys with
  | nil => cases h; exact .refl _
  | cons k ks ih =>
    obtain ⟨mid, hedge, hrun⟩ := systemRun_cons_cases h
    exact (runsEachAlone_edge hedge).trans (ih hrun)

/-- Where every copy has seen a reset, an edge goes on and no copy loses its reset. -/
theorem systemEdge_total {sys : System} (hseen : ∀ s ∈ sys, s.resetSeen = true) (k : Nat) :
    ∃ sys', systemEdge sys k = .next sys' ∧ ∀ s ∈ sys', s.resetSeen = true := by
  cases hk : sys[k]? with
  | none => exact ⟨sys, systemEdge_of_no_copy hk, hseen⟩
  | some s =>
    have hs := hseen s (List.mem_of_getElem? hk)
    obtain ⟨t, hstep⟩ := step_total hs
    refine ⟨sys.set k t, systemEdge_of_next hk hstep, fun u hu => ?_⟩
    obtain hold | rfl := List.mem_or_eq_of_mem_set hu
    · exact hseen u hold
    · exact step_keeps_resetSeen hstep hs

/-- Where every copy has seen a reset, every schedule runs through. -/
theorem systemRun_total {sys : System} (hseen : ∀ s ∈ sys, s.resetSeen = true) (schedule : List Nat) :
    ∃ sys', systemRun sys schedule = .next sys' := by
  induction schedule generalizing sys with
  | nil => exact ⟨sys, rfl⟩
  | cons k ks ih =>
    obtain ⟨mid, hedge, hmid⟩ := systemEdge_total hseen k
    rw [systemRun_cons_of_next ks hedge]
    exact ih hmid

/-- Settles O54: the run goes through, and every run of the system gives each copy its own. -/
theorem copiesCannotObserveOneAnother : Obligations.CopiesCannotObserveOneAnother := by
  intro schedule sys hseen
  obtain ⟨sys', hrun⟩ := systemRun_total hseen schedule
  exact ⟨sys', hrun, runsEachAlone_of_systemRun hrun⟩

/-- Settles O55: each edge is told by its own copy, which the other edge leaves as it was, and a stop is the same fault
whichever copy is stuck. -/
theorem edgesOfDifferentCopiesCommute : Obligations.EdgesOfDifferentCopiesCommute := by
  intro sys j k hjk
  have hkeepk : ∀ t, (sys.set j t)[k]? = sys[k]? := fun _ => List.getElem?_set_ne hjk
  have hkeepj : ∀ u, (sys.set k u)[j]? = sys[j]? := fun _ => List.getElem?_set_ne hjk.symm
  rcases systemEdge_depends_on_its_copy sys j, systemEdge_depends_on_its_copy sys k with
    ⟨⟨t, hj⟩ | hj, ⟨u, hk⟩ | hk⟩
  · rw [systemRun_cons_of_next _ (hj sys rfl), systemRun_cons_of_next _ (hk _ (hkeepk t)),
      systemRun_cons_of_next _ (hk sys rfl), systemRun_cons_of_next _ (hj _ (hkeepj u)), List.set_comm t u hjk]
  · rw [systemRun_cons_of_next _ (hj sys rfl), systemRun_cons_of_fault _ (hk _ (hkeepk t)),
      systemRun_cons_of_fault _ (hk sys rfl)]
  · rw [systemRun_cons_of_fault _ (hj sys rfl), systemRun_cons_of_next _ (hk sys rfl),
      systemRun_cons_of_fault _ (hj _ (hkeepj u))]
  · rw [systemRun_cons_of_fault _ (hj sys rfl), systemRun_cons_of_fault _ (hk sys rfl)]

end Sys2Proof.Machine
end

section
/-! Reset (70_reset_and_hazards.md R190, R191, R192): what an edge with `rst = 1` does, and what an edge without it does
before the first. -/

namespace Sys2Proof.Machine

/-- Before the first reset no step but RESET is enabled (R191). -/
theorem step_before_first_reset {s : State} (hs : s.resetSeen = false) (hr : s.edge.rst = false) :
    step s = .fault .beforeFirstReset := by
  simp [step, clockEdge, edgeEffect, afterEdge, hs, hr]

theorem afterReset_resetStep_advance (s : State) : AfterReset s.resetStep.advance := ⟨rfl, rfl⟩

/-- Outside `DONE` no response is shown (R32). -/
theorem rspValid_eq_false {s : State} (hs : s.resetSeen = true) (hp : s.phase ≠ phaseDone) : s.rspValid = false :=
  Bool.eq_false_iff.2 fun h => hp ((rspValid_iff hs).1 h)

/-- Settles O44: the RESET step leaves `IDLE`, and the ports follow the phase. -/
theorem resetAlwaysReachesIdle : Obligations.ResetAlwaysReachesIdle := by
  intro s hr
  obtain ⟨hs, hp⟩ := afterReset_resetStep_advance s
  exact ⟨_, step_of_reset hr, ⟨hs, hp⟩, rfl, (cmdReady_iff hs false).2 ⟨hp, rfl⟩, rspValid_eq_false hs (by simp)⟩

/-- Settles O45. -/
theorem stuckUntilTheFirstReset : Obligations.StuckUntilTheFirstReset := fun s hs =>
  ⟨step_before_first_reset hs, fun hr => ⟨_, step_of_reset hr, afterReset_resetStep_advance s⟩⟩

end Sys2Proof.Machine
end

section
/-! Runs inside one phase (70_reset_and_hazards.md R201, R206): the state after `n` edges of back-pressure and after `n`
edges of the latency, written out. -/

namespace Sys2Proof.Machine

/-- The next `n` edges meet `p` exactly when each of them, reached by dropping those before it, does. -/
theorem nextInputs_iff {p : EdgeInputs → Prop} {n : Nat} {es : List EdgeInputs} :
    NextInputs p n es ↔ ∀ k < n, p ((es.drop k).headD EdgeInputs.quiet) := by
  induction n generalizing es with
  | zero => simp [NextInputs]
  | succ n ih => simp only [NextInputs, ih, Nat.forall_lt_succ_left, List.drop_tail, List.drop_zero]

theorem nextInputs_mono {p : EdgeInputs → Prop} {m n : Nat} {es : List EdgeInputs} (hmn : m ≤ n)
    (h : NextInputs p n es) : NextInputs p m es :=
  nextInputs_iff.2 fun k hk => nextInputs_iff.1 h k (hk.trans_le hmn)

theorem runEdges_succ_of_next {s t : State} (n : Nat) (h : step s = .next t) : runEdges (n + 1) s = runEdges n t := by
  simp [runEdges, h]

/-- Under back-pressure only the bookkeeping moves on (R201). -/
theorem runEdges_of_held {n : Nat} {s : State} (hs : s.showsResponse)
    (hin : NextInputs (fun e => e.rst = false ∧ e.rspReady = false) n s.inputs) :
    runEdges n s = .next { s with inputs := s.inputs.drop n, tick := s.tick + n } := by
  induction n generalizing s with
  | zero => rfl
  | succ n ih =>
    obtain ⟨⟨hr, hv⟩, hrest⟩ := hin
    rw [runEdges_succ_of_next n (step_of_held hs.1 hs.2 hr hv), ih (s := s.advance) hs hrest]
    simp [State.advance, Nat.add_assoc, Nat.add_comm 1 n]

/-- Inside the latency the count goes down, and beside it only the bookkeeping moves on (R206). -/
theorem runEdges_of_busy {n : Nat} {s : State} (hs : s.resetSeen = true) (hp : s.phase = phaseBusy) (hn : n ≤ s.wait)
    (hin : NextInputs (fun e => e.rst = false) n s.inputs) :
    runEdges n s = .next { s with wait := s.wait - n, inputs := s.inputs.drop n, tick := s.tick + n } := by
  induction n generalizing s with
  | zero => rfl
  | succ n ih =>
    obtain ⟨hr, hrest⟩ := hin
    have hstep := step_of_wait hs hp hr (Nat.ne_zero_of_lt hn)
    rw [runEdges_succ_of_next n hstep, ih (s := s.waitEdge.advance) hs hp (Nat.le_sub_one_of_lt hn) hrest]
    simp [State.waitEdge, State.advance, Nat.add_assoc, Nat.add_comm 1 n, Nat.sub_sub]

/-- Settles O48: nothing the ports show of a response is bookkeeping. -/
theorem responseIsHeldUntilTaken : Obligations.ResponseIsHeldUntilTaken := by
  intro n s hs hin
  obtain ⟨t, hrun, hshows, hres, hstatus, hresponses⟩ : ∃ t, runEdges n s = .next t ∧ t.showsResponse ∧
      t.res = s.res ∧ t.status = s.status ∧ t.responses = s.responses :=
    ⟨_, runEdges_of_held hs hin, hs, rfl, rfl, rfl⟩
  obtain ⟨hseen, hp⟩ := hshows
  refine ⟨t, hrun, (rspValid_iff hseen).2 hp, ?_, ?_, ?_, hresponses⟩
  · rw [rspValue_of_showsResponse ⟨hseen, hp⟩, rspValue_of_showsResponse hs, hres]
  · rw [rspStatus_of_showsResponse ⟨hseen, hp⟩, rspStatus_of_showsResponse hs, hstatus]
  · simp [State.cmdReady, hseen, hp]

/-- The edge after the latency executes the held command, and the machine shows the response to it (R26, R206). -/
theorem runEdges_busy_to_response {s : State} (hs : s.resetSeen = true) (hp : s.phase = phaseBusy)
    (hin : NextInputs (fun e => e.rst = false) (s.wait + 1) s.inputs) :
    ∃ t, runEdges (s.wait + 1) s = .next t ∧ t.showsResponse ∧ t.heldCommand = s.heldCommand ∧
      Answers (decode s.heldCommand) t.res t.status := by
  have hlatency := runEdges_of_busy hs hp le_rfl (nextInputs_mono s.wait.le_succ hin)
  have hr := nextInputs_iff.1 hin s.wait s.wait.lt_succ_self
  rw [runEdges_add 1 hlatency, runEdges_one]
  refine ⟨_, step_of_exec hs hp hr (Nat.sub_self _), ⟨by simpa using hs, by simp⟩,
    ?_, answers_finish _ _⟩
  rw [State.advance_heldCommand, finish_heldCommand]
  rfl

/-- Settles O49: the edges inside the latency, and the one after it. -/
theorem busyMachineAnswersItsCommand : Obligations.BusyMachineAnswersItsCommand := by
  intro s hs hp hin
  refine ⟨fun n hn => ?_, ?_⟩
  · have hlatency := nextInputs_mono (Nat.le_succ_of_le hn) hin
    exact ⟨_, runEdges_of_busy hs hp hn hlatency, hp, rspValid_eq_false hs (by simp [hp])⟩
  · obtain ⟨t, hrun, hshows, hheld, hanswers⟩ := runEdges_busy_to_response hs hp hin
    refine ⟨t, hrun, (rspValid_iff hshows.1).2 hshows.2, hheld, ?_⟩
    rwa [rspValue_of_showsResponse hshows, rspStatus_of_showsResponse hshows]

end Sys2Proof.Machine
end
